-- ==== Sys2Proof/Word.lean ====
section
/-! DEFINITION. The two word types of the block (00_scope.md R8): `u16` and `u8`. -/

namespace Sys2Proof

/-- `u16` (00_scope.md R8): a register, a command word, a color value (`COLOR_BITS` = 16, R5). -/
abbrev Word := BitVec 16

/-- `u8` (00_scope.md R8): one byte of `MEM`. -/
abbrev Byte := BitVec 8

end Sys2Proof
end

