-- ==== Sys2Proof/Config.lean ====
section
/-! DEFINITION. The implementation parameters of 00_scope.md R5 and R6, each a named constant with the
spec's value. R6 lets a model take the second group as arguments; this model fixes them (log entry 8). -/

namespace Sys2Proof.Config

/-- `MEM_SIZE` (R5): 128 KiB. -/
abbrev memSize : Nat := 131072
/-- `FB_W` (R5). -/
abbrev fbW : Nat := 128
/-- `FB_H` (R5). -/
abbrev fbH : Nat := 128
/-- `PAL_COUNT` (R5). -/
abbrev palCount : Nat := 16
/-- `PAL_SIZE` (R5). -/
abbrev palSize : Nat := 16
/-- `CELL` (R5): a bitmap is 8 × 8 pixels. -/
abbrev cell : Nat := 8
/-- `BMP_COUNT` (R5). -/
abbrev bmpCount : Nat := 256
/-- `DESC_COUNT` (R5). -/
abbrev descCount : Nat := 128
/-- `CH_BITS` (R5): bits per color channel. -/
abbrev chBits : Nat := 5
/-- `PIX_BITS` (R5): bits per bitmap pixel. -/
abbrev pixBits : Nat := 4
/-- `COLOR_BITS` (R5): bits per color value. -/
abbrev colorBits : Nat := 16

/-- `DESC_BYTES` (R6). -/
abbrev descBytes : Nat := 8
/-- `BMP_BYTES` (R6). -/
abbrev bmpBytes : Nat := 32
/-- `BITMAPS_PER_ROW` (R6; 44_rasterizer.md R195). -/
abbrev bitmapsPerRow : Nat := 16
/-- `DESC_BASE` (R6; 20_memory.md R55). -/
abbrev descBase : Nat := 0x1FC00
/-- `BMP_BASE` (R6; 20_memory.md R55). -/
abbrev bmpBase : Nat := 0x1DC00
/-- `PAL_BASE` (R6; 20_memory.md R55). -/
abbrev palBase : Nat := 0x1DA00
/-- `FB_BASE` (R6; 20_memory.md R55). -/
abbrev fbBase : Nat := 0x15A00

/-- `SIZE_TABLE` (R6; 44_rasterizer.md R191): size class 0, 1, 2, 3 → N = 1, 2, 4, 8 tiles per axis. -/
def sizeTable (size : BitVec 2) : Nat :=
  match size.toNat with
  | 0 => 1
  | 1 => 2
  | 2 => 4
  | _ => 8

end Sys2Proof.Config
end

