-- ==== Sys2Proof/Syntax.lean ====
section
/-! DEFINITION. The commands (30_encoding.md R82, one constructor per row of spec/opcode_table.json), the kinds
of their operands (R84, R85), and the lines and pseudo-instructions of the assembler (R87, R89). -/

namespace Sys2Proof

/-- The 19 assigned commands (30_encoding.md R82). A command word holds no operand (R80): the operands are the
ARG registers, so no constructor has a field. -/
inductive Instr
  | nop | clear | rd8 | wr8 | rd16 | wr16
  | encode | decode
  | sprSet | sprGet | sprSetRow | palSet | palGet
  | pset | fill | rect | line | fbGet
  | raster
  deriving DecidableEq, Repr

/-- The operand kinds of 30_encoding.md R84 and R85. -/
inductive OperandKind
  /-- `addr`: two ARG registers, low half first, for an access of `n` bytes. -/
  | addr (n : Nat)
  /-- `byte`: legal iff at most 255. -/
  | byte
  /-- `idx<B`: legal iff below `bound`. -/
  | idx (bound : Nat)
  /-- `coord`: a signed 16-bit coordinate; every value is legal. -/
  | coord
  /-- `raw16`: the 16 bits as they are; every value is legal. -/
  | raw16
  deriving DecidableEq, Repr

/-- An assembler line `MNEMONIC op0, op1, ...` (30_encoding.md R87): an address is ONE number of the line. -/
structure Line where
  instr : Instr
  ops   : List Int
  deriving DecidableEq, Repr

/-- The pseudo-instructions of 30_encoding.md R89, with their operands as the numbers of the line. -/
inductive Pseudo
  | reset
  | cls (c : Int)
  | hline (x0 x1 y c : Int)
  | vline (x y0 y1 c : Int)
  /-- `SPR_LOAD s, r0l, r0h, ..., r7l, r7h`: the 16 row words in order. -/
  | sprLoad (s : Int) (rows : List Int)
  | desc (n x y idx pal flags : Int)
  | descOff (n : Int)
  deriving DecidableEq, Repr

end Sys2Proof
end

