-- ==== Sys2Proof/Machine/Operands.lean ====
section
/-! DEFINITION. Which operands a command reads (30_encoding.md R84), how each kind is decoded (R85), and the
one check every command makes before it writes anything (R86; 60_exceptions.md R223). -/

namespace Sys2Proof

/-- The operands of a command in ARG order, the table of 30_encoding.md R84. An `addr` takes ARG0 and ARG1. -/
def Instr.operands : Instr → List OperandKind
  | .nop | .clear | .raster => []
  | .rd8       => [.addr 1]
  | .wr8       => [.addr 1, .byte]
  | .rd16      => [.addr 2]
  | .wr16      => [.addr 2, .raw16]
  | .encode    => [.byte, .byte, .byte]
  | .decode    => [.raw16]
  | .sprSet    => [.idx Config.bmpCount, .idx Config.cell, .idx Config.cell, .idx 16]
  | .sprGet    => [.idx Config.bmpCount, .idx Config.cell, .idx Config.cell]
  | .sprSetRow => [.idx Config.bmpCount, .idx Config.cell, .raw16, .raw16]
  | .palSet    => [.idx Config.palCount, .idx Config.palSize, .raw16]
  | .palGet    => [.idx Config.palCount, .idx Config.palSize]
  | .pset      => [.coord, .coord, .raw16]
  | .fill      => [.raw16]
  | .rect      => [.coord, .coord, .coord, .coord, .raw16]
  | .line      => [.coord, .coord, .coord, .coord, .raw16]
  | .fbGet     => [.idx (Config.fbW * Config.fbH)]

namespace Machine

/-- `a = zext(ARG1) * 65536 + zext(ARG0)` (30_encoding.md R85; 40_memory_commands.md R100). -/
def addrOperand (lo hi : Word) : Nat := hi.toNat * 65536 + lo.toNat

/-- `sext16` (00_scope.md R9): the operand kind `coord`. -/
def coordOperand (w : Word) : Int := w.toInt

/-- An operand that a command refuses (30_encoding.md R85): an address beyond `MEM`, or an index or byte
value out of range. 60_exceptions.md R220 gives each its error code. -/
inductive BadOperand
  | address
  | value
  deriving DecidableEq, Repr

/-- The first operand, in ascending ARG order, that fails its check (30_encoding.md R85, R86; 60_exceptions.md
R223); `none` when every operand is legal. `args` are the values of the ARG registers from the first
unchecked one on. -/
def firstBadOperand : List OperandKind → List Word → Option BadOperand
  | .addr n :: ks, lo :: hi :: args =>
    if addrOperand lo hi + n ≤ Config.memSize then firstBadOperand ks args else some .address
  | .byte :: ks, w :: args => if w.toNat ≤ 255 then firstBadOperand ks args else some .value
  | .idx b :: ks, w :: args => if w.toNat < b then firstBadOperand ks args else some .value
  | .coord :: ks, _ :: args => firstBadOperand ks args
  | .raw16 :: ks, _ :: args => firstBadOperand ks args
  | _, _ => none

end Machine
end Sys2Proof
end

