-- ==== Sys2Proof/WellFormed.lean ====
section
/-! DEFINITION. What is well formed: an instruction (no field, so no check), an assembler line (30_encoding.md
R87: the command's operands, each a number its ARG registers can hold) and a pseudo-instruction (R89). -/

namespace Sys2Proof

/-- A command word carries no operand (30_encoding.md R80), so every `Instr` is well formed. -/
def Instr.wellFormed : Instr → Bool
  | .nop | .clear | .rd8 | .wr8 | .rd16 | .wr16 | .encode | .decode | .sprSet | .sprGet | .sprSetRow
  | .palSet | .palGet | .pset | .fill | .rect | .line | .fbGet | .raster => true

/-- The numbers an assembler line may write for an operand (30_encoding.md R87): an address from 0 to 0x1FFFF;
a `coord` also as a negative decimal; any other operand an unsigned 16-bit number. A value the
command itself then refuses (R85) is still writable. -/
def OperandKind.writable (k : OperandKind) (v : Int) : Bool :=
  match k with
  | .addr _ => 0 ≤ v && v < 0x20000
  | .coord  => -32768 ≤ v && v < 65536
  | .byte | .idx _ | .raw16 => 0 ≤ v && v < 65536

/-- One writable number per operand of the command (30_encoding.md R87). -/
def Line.wellFormed (l : Line) : Bool :=
  l.ops.length == l.instr.operands.length &&
    (l.instr.operands.zip l.ops).all fun p => p.1.writable p.2

/-- The operands of a pseudo-instruction (30_encoding.md R89) that its expansion can write: SPR_LOAD has its 16
row words, DESC and DESC_OFF name one of the 128 descriptors with field values that fit their fields. -/
def Pseudo.wellFormed : Pseudo → Bool
  | .reset => true
  | .cls c => OperandKind.raw16.writable c
  | .hline x0 x1 y c =>
    [x0, x1, y].all OperandKind.coord.writable && OperandKind.raw16.writable c
  | .vline x y0 y1 c =>
    [x, y0, y1].all OperandKind.coord.writable && OperandKind.raw16.writable c
  | .sprLoad s rows =>
    OperandKind.raw16.writable s && rows.length == 16 && rows.all OperandKind.raw16.writable
  | .desc n x y idx pal flags =>
    (0 ≤ n && n < Config.descCount) && [x, y].all OperandKind.coord.writable &&
      (0 ≤ idx && idx < 256) && (0 ≤ pal && pal < 16) && (0 ≤ flags && flags < 32)
  | .descOff n => 0 ≤ n && n < Config.descCount

end Sys2Proof
end

