-- ==== Sys2Proof/Decode.lean ====
section
/-! DEFINITION. The decoder of 30_encoding.md R80 to R83, total on every 16-bit word and rejecting by name, and
the encoder written from the same table (R82). -/

namespace Sys2Proof

/-- Why a word is no command (30_encoding.md R83). Both raise ILLEGAL_CMD. -/
inductive IllegalWord
  /-- `CMD[15:8] != 0`. -/
  | reservedNonzero
  /-- An `OPC` not in the table of R82. -/
  | unassignedOpcode
  deriving DecidableEq, Repr

/-- The opcode map of 30_encoding.md R82. -/
def instrOfOpcode (opc : Nat) : Option Instr :=
  match opc with
  | 0x00 => some .nop
  | 0x01 => some .clear
  | 0x02 => some .rd8
  | 0x03 => some .wr8
  | 0x04 => some .rd16
  | 0x05 => some .wr16
  | 0x10 => some .encode
  | 0x11 => some .decode
  | 0x20 => some .sprSet
  | 0x21 => some .sprGet
  | 0x22 => some .sprSetRow
  | 0x28 => some .palSet
  | 0x29 => some .palGet
  | 0x30 => some .pset
  | 0x31 => some .fill
  | 0x32 => some .rect
  | 0x33 => some .line
  | 0x34 => some .fbGet
  | 0x40 => some .raster
  | _ => none

/-- The format `CMD16` (30_encoding.md R80): `RSV` in bits 15:8, `OPC` in bits 7:0. -/
def decode (w : Word) : Except IllegalWord Instr :=
  if w.extractLsb' 8 8 ≠ 0#8 then .error .reservedNonzero
  else
    match instrOfOpcode (w.extractLsb' 0 8).toNat with
    | some i => .ok i
    | none => .error .unassignedOpcode

/-- The command word of each instruction (30_encoding.md R82: `0x00OO`). -/
def encode : Instr → Word
  | .nop       => 0x0000
  | .clear     => 0x0001
  | .rd8       => 0x0002
  | .wr8       => 0x0003
  | .rd16      => 0x0004
  | .wr16      => 0x0005
  | .encode    => 0x0010
  | .decode    => 0x0011
  | .sprSet    => 0x0020
  | .sprGet    => 0x0021
  | .sprSetRow => 0x0022
  | .palSet    => 0x0028
  | .palGet    => 0x0029
  | .pset      => 0x0030
  | .fill      => 0x0031
  | .rect      => 0x0032
  | .line      => 0x0033
  | .fbGet     => 0x0034
  | .raster    => 0x0040

/-- The instruction the decoder reads from the low `nbits` bits of `w`, every higher bit 0. A command is one
16-bit word (30_encoding.md R81), so bits from 16 on belong to no command and are not read. -/
def decodeTableWord (nbits w : Nat) : Option Instr :=
  match decode (BitVec.ofNat 16 (w % 2 ^ nbits)) with
  | .ok i => some i
  | .error _ => none

end Sys2Proof
end

