-- ==== Sys2Proof/Machine/State.lean ====
section
/-! DEFINITION. The architectural state of 10_state.md R22 and R23 as plain data, with the host port's own data
(R32), and the state after hardware reset (70_reset_and_hazards.md R250, R252). -/

namespace Sys2Proof.Machine

/-- The register names of 10_state.md R23. -/
inductive Reg
  | cmd | arg0 | arg1 | arg2 | arg3 | arg4 | res0 | res1 | res2 | status | width | height | reserved
  deriving DecidableEq, Repr

/-- What the outside of the block can do to it: a host transaction (10_state.md R32, register numbers of 4 bits)
or an assertion of the reset input (70_reset_and_hazards.md R250). -/
inductive Input
  /-- `HostRead(n)` -/
  | read (n : BitVec 4)
  /-- `HostWrite(n, v)` -/
  | write (n : BitVec 4) (v : Word)
  /-- power-on, or assertion of the reset input -/
  | reset
  deriving DecidableEq, Repr

/-- `MEM` (20_memory.md R50): the cells whose byte is not 0x00, at strictly rising addresses. An address that is
not listed holds 0x00, the reset contents of R250. -/
abbrev Memory := List Host.Cell

/-- The state of the block. The first eleven fields are the spec's (10_state.md R22); `inputs` and `response`
are the model's own and carry the host port (log entries 1 and 2). -/
structure State where
  /-- CMD, the last command word the host wrote (10_state.md R24). -/
  cmd : Word
  /-- ARG0 to ARG4, the operand registers (10_state.md R25). -/
  arg0 : Word
  arg1 : Word
  arg2 : Word
  arg3 : Word
  arg4 : Word
  /-- RES0 to RES2, the result registers (10_state.md R26). -/
  res0 : Word
  res1 : Word
  res2 : Word
  /-- STATUS, the outcome of the last command (10_state.md R27). -/
  status : Word
  /-- `MEM` (10_state.md R22). -/
  mem : Memory
  /-- MODEL: the host's transactions not yet issued, in its program order (10_state.md R20, R32). -/
  inputs : List Input
  /-- MODEL: what the last completed transaction answered, the register's value for a read (10_state.md R32),
  nothing for a write or a reset. -/
  response : Option Word
  deriving DecidableEq, Repr

/-- Why a step stops with a fault: never. A command that cannot be done reports in STATUS and the block goes on
(60_exceptions.md R226), so no constructor is needed (log entry 7). -/
inductive Fault
  deriving DecidableEq, Repr

/-- Why a step has no meaning. -/
inductive Refusal
  /-- Raised by an arm of `exec` whose instruction has no meaning yet; safe. No arm raises it. -/
  | notModelled (mnemonic : String)
  deriving DecidableEq, Repr

/-- The outcome of a step of this machine. -/
abbrev StepResult := Host.Outcome State Fault Refusal

/-- The state after hardware reset (70_reset_and_hazards.md R250, R252): `MEM` all 0x00, every register 0x0000.
The host has issued nothing (log entries 1 and 2). -/
def State.reset : State where
  cmd := 0x0000
  arg0 := 0x0000
  arg1 := 0x0000
  arg2 := 0x0000
  arg3 := 0x0000
  arg4 := 0x0000
  res0 := 0x0000
  res1 := 0x0000
  res2 := 0x0000
  status := 0x0000
  mem := []
  inputs := []
  response := none

/-- The values of ARG0 to ARG4, in order. -/
def State.args (s : State) : List Word := [s.arg0, s.arg1, s.arg2, s.arg3, s.arg4]

/-- A write of CMD's storage (10_state.md R24). -/
def State.setCmd (s : State) (w : Word) : State := { s with cmd := w }
/-- A write of ARG0's storage (10_state.md R25). -/
def State.setArg0 (s : State) (w : Word) : State := { s with arg0 := w }
/-- A write of ARG1's storage (10_state.md R25). -/
def State.setArg1 (s : State) (w : Word) : State := { s with arg1 := w }
/-- A write of ARG2's storage (10_state.md R25). -/
def State.setArg2 (s : State) (w : Word) : State := { s with arg2 := w }
/-- A write of ARG3's storage (10_state.md R25). -/
def State.setArg3 (s : State) (w : Word) : State := { s with arg3 := w }
/-- A write of ARG4's storage (10_state.md R25). -/
def State.setArg4 (s : State) (w : Word) : State := { s with arg4 := w }
/-- `RES[0] <- w` (00_scope.md R10). -/
def State.setRes0 (s : State) (w : Word) : State := { s with res0 := w }
/-- `RES[1] <- w` (00_scope.md R10). -/
def State.setRes1 (s : State) (w : Word) : State := { s with res1 := w }
/-- `RES[2] <- w` (00_scope.md R10). -/
def State.setRes2 (s : State) (w : Word) : State := { s with res2 := w }
/-- A write of STATUS by the completion of a command (10_state.md R27). -/
def State.setStatus (s : State) (w : Word) : State := { s with status := w }
/-- The state with another `MEM`. -/
def State.setMem (s : State) (m : Memory) : State := { s with mem := m }
/-- The completion of a transaction: it leaves the queue and answers `r` (10_state.md R32). -/
def State.setPort (s : State) (rest : List Input) (r : Option Word) : State :=
  { s with inputs := rest, response := r }

end Sys2Proof.Machine
end

