-- ==== Sys2Proof/Machine/Flags.lean ====
section
/-! DEFINITION. STATUS (10_state.md R27) and the error codes it reports (60_exceptions.md R220 to R222). -/

namespace Sys2Proof.Machine

/-- The error codes of 60_exceptions.md R220. -/
inductive ErrorCode
  | illegalCmd
  | argRange
  | addrRange
  deriving DecidableEq, Repr

/-- ECODE of each error (60_exceptions.md R220). -/
def errorNumber : ErrorCode → Word
  | .illegalCmd => 1
  | .argRange   => 2
  | .addrRange  => 3

/-- `0x0001 | (E << 4)` (60_exceptions.md R222). -/
def errorStatus (e : ErrorCode) : Word := 0x0001 ||| (errorNumber e <<< 4)

/-- The value STATUS takes when a command completes (60_exceptions.md R221). -/
def successStatus : Word := 0x0000

/-- What a host read of STATUS returns (10_state.md R27): ERR in bit 0, ECODE in bits 7:4, the reserved bits
3:1 and 15:8 read as 0 (log entry 5). -/
def readStatus (s : State) : Word := s.status &&& 0x00F1

end Sys2Proof.Machine
end

