-- ==== Sys2Proof/Machine/Ops.lean ====
section
/-! DEFINITION. The named operations every command is written in: reads and writes of `MEM` (20_memory.md R51),
the register file as the host sees it (10_state.md R23 to R31), raising an error and completing (60_exceptions.md
R221, R222), the loops of the pseudocode (00_scope.md R10), and hardware reset (70_reset_and_hazards.md R250). -/

namespace Sys2Proof.Machine

/-! ### `MEM` -/

/-- `MEM[a]` (20_memory.md R51); an unlisted byte is 0x00 (70_reset_and_hazards.md R250). -/
def Memory.read : Memory → Nat → Byte
  | [], _ => 0x00
  | (b, w) :: rest, a => if b = a then w else Memory.read rest a

/-- The cells that a run of bytes from address `a` on lists: those that are not 0x00. -/
def cellsFrom (a : Nat) : List Byte → Memory
  | [] => []
  | v :: vs => if v = 0x00 then cellsFrom (a + 1) vs else (a, v) :: cellsFrom (a + 1) vs

/-- `MEM[a] <- v0; MEM[a+1] <- v1; ...` in one splice: the cells below the run, the run, the cells above it. Like
`MemWrite` (00_scope.md R10) it is meant for a run inside `MEM` only, which every command checks before it
writes (log entry 6). -/
def Memory.writeBytes (m : Memory) (a : Nat) (vs : List Byte) : Memory :=
  if vs = [] then m
  else
    let stop := a + vs.length
    (m.filter fun c => c.1 < a) ++ (cellsFrom a vs ++ m.filter fun c => stop ≤ c.1)

/-- `MemWrite(a, 1, v)` (20_memory.md R51). -/
def Memory.write (m : Memory) (a : Nat) (v : Byte) : Memory := m.writeBytes a [v]

/-- The cells lie at strictly rising addresses from `lo` on, below `MEM_SIZE`, and none holds 0x00. -/
def Memory.wfFrom : Nat → Memory → Bool
  | _, [] => true
  | lo, (b, w) :: rest => lo ≤ b && (b < Config.memSize && (w ≠ 0x00 && Memory.wfFrom (b + 1) rest))

/-- The canonical form of `MEM`: addresses strictly rising and below `MEM_SIZE`, and no 0x00 listed. -/
def Memory.wf (m : Memory) : Bool := Memory.wfFrom 0 m

/-- `v[7:0]` (00_scope.md R8). -/
def loByte (v : Word) : Byte := v.extractLsb' 0 8

/-- `v[15:8]` (00_scope.md R8). -/
def hiByte (v : Word) : Byte := v.extractLsb' 8 8

/-- `MemRead(a, 2)`: little-endian (20_memory.md R51). -/
def Memory.read16 (m : Memory) (a : Nat) : Word := m.read (a + 1) ++ m.read a

/-- The bytes of 16-bit values that lie one after the other, each little-endian (20_memory.md R51). -/
def littleEndian (ws : List Word) : List Byte := ws.flatMap fun w => [loByte w, hiByte w]

/-- Consecutive 16-bit values from address `a` on. -/
def Memory.writeWords (m : Memory) (a : Nat) (ws : List Word) : Memory := m.writeBytes a (littleEndian ws)

/-- `MemWrite(a, 2, v)`: little-endian (20_memory.md R51). -/
def Memory.write16 (m : Memory) (a : Nat) (v : Word) : Memory := m.writeWords a [v]

/-- Every byte 0x00 (40_memory_commands.md R103): in the canonical form, nothing listed. -/
def Memory.cleared : Memory := []

/-- `zext` of a byte to a register value (00_scope.md R9). -/
def zextByte (b : Byte) : Word := b.setWidth 16

/-! ### Loops -/

/-- `for i in 0..n-1` (00_scope.md R10) over a memory that the body changes. -/
def loop (n : Nat) (body : Nat → Memory → Memory) (m : Memory) : Memory :=
  (List.range n).foldl (fun m i => body i m) m

/-! ### The register file -/

/-- The register map of 10_state.md R23. -/
def regOfNumber (n : BitVec 4) : Reg :=
  match n.toNat with
  | 0x0 => .cmd
  | 0x1 => .arg0
  | 0x2 => .arg1
  | 0x3 => .arg2
  | 0x4 => .arg3
  | 0x5 => .arg4
  | 0x6 => .res0
  | 0x7 => .res1
  | 0x8 => .res2
  | 0x9 => .status
  | 0xA => .width
  | 0xB => .height
  | _   => .reserved

/-- What a host read of a register returns (10_state.md R24 to R29); no read has a side effect (R30). -/
def State.readReg (s : State) : Reg → Word
  | .cmd      => s.cmd
  | .arg0     => s.arg0
  | .arg1     => s.arg1
  | .arg2     => s.arg2
  | .arg3     => s.arg3
  | .arg4     => s.arg4
  | .res0     => s.res0
  | .res1     => s.res1
  | .res2     => s.res2
  | .status   => readStatus s
  | .width    => BitVec.ofNat 16 Config.fbW
  | .height   => BitVec.ofNat 16 Config.fbH
  | .reserved => 0x0000

/-- What a host write stores in a register: CMD and the ARG registers take the value (10_state.md R24, R25); the
others change no state (R26 to R29, R31). The command that a write of CMD starts is `startCommand`. -/
def State.writeReg (s : State) (r : Reg) (v : Word) : State :=
  match r with
  | .cmd  => s.setCmd v
  | .arg0 => s.setArg0 v
  | .arg1 => s.setArg1 v
  | .arg2 => s.setArg2 v
  | .arg3 => s.setArg3 v
  | .arg4 => s.setArg4 v
  | .res0 | .res1 | .res2 | .status | .width | .height | .reserved => s

/-! ### Completion and errors -/

/-- A command that does not raise ends with STATUS <- 0x0000 (60_exceptions.md R221). -/
def complete (s : State) : StepResult := .next (s.setStatus successStatus)

/-- `raise E` (00_scope.md R10; 60_exceptions.md R222): STATUS reports the error and nothing else changes; it is
no trap (R226). -/
def raise (e : ErrorCode) (s : State) : StepResult := .next (s.setStatus (errorStatus e))

/-- The error code of an operand that fails (60_exceptions.md R220). -/
def errorOfBadOperand : BadOperand → ErrorCode
  | .address => .addrRange
  | .value   => .argRange

/-- The template of every command (00_scope.md R10, R11): check all operands in ARG order (30_encoding.md R86), and
raise the first failure; otherwise take the effect and complete. -/
def runChecked (i : Instr) (effect : State → State) (s : State) : StepResult :=
  match firstBadOperand i.operands s.args with
  | some b => raise (errorOfBadOperand b) s
  | none => complete (effect s)

/-- The address operand of a memory command (40_memory_commands.md R100). -/
def State.address (s : State) : Nat := addrOperand s.arg0 s.arg1

/-! ### Reset -/

/-- Hardware reset (70_reset_and_hazards.md R250): every register and byte at its reset value. The host's
transactions are not the block's, so those not yet issued stay (log entry 4). -/
def hardwareReset (s : State) : State := State.reset.setPort s.inputs none

end Sys2Proof.Machine
end

