-- ==== Sys2Proof/Machine/ColorCodec.lean ====
section
/-! DEFINITION. The color codec (41_color_codec.md R120, R124, R125). -/

namespace Sys2Proof.Machine

/-- The packed color of ENCODE (41_color_codec.md R124): the opacity bit set, each channel's low 3 bits dropped. -/
def packColor (r g b : Word) : Word :=
  0x8000 ||| ((r >>> 3) <<< 10) ||| ((g >>> 3) <<< 5) ||| (b >>> 3)

/-- The channel field whose lowest bit is `lo` (41_color_codec.md R120), as DECODE returns it: shifted left by 3
(R125). -/
def unpackChannel (c : Word) (lo : Nat) : Word :=
  (c.extractLsb' lo Config.chBits).setWidth 16 <<< 3

/-- ENCODE (41_color_codec.md R124). -/
def execEncode (s : State) : StepResult :=
  runChecked .encode (fun s => s.setRes0 (packColor s.arg0 s.arg1 s.arg2)) s

/-- DECODE (41_color_codec.md R125): R in bits 14:10, G in 9:5, B in 4:0. -/
def execDecode (s : State) : StepResult :=
  runChecked .decode
    (fun s => ((s.setRes0 (unpackChannel s.arg0 10)).setRes1 (unpackChannel s.arg0 5)).setRes2
      (unpackChannel s.arg0 0)) s

end Sys2Proof.Machine
end

