-- ==== Sys2Proof/Machine/Layout.lean ====
section
/-! DEFINITION. What the bytes of `MEM` mean: zones (20_memory.md R55, R56), framebuffer (R57, R62), palettes (R58;
41_color_codec.md R121, R123), bitmaps (R59, R60) and descriptors (R61). -/

namespace Sys2Proof.Machine

/-- The regions of the address map (20_memory.md R55, R56). -/
inductive Zone
  | general | framebuffer | palettes | bitmaps | descriptors
  deriving DecidableEq, Repr

/-- The first address of a zone (20_memory.md R55). -/
def zoneFirst : Zone → Nat
  | .general     => 0x00000
  | .framebuffer => Config.fbBase
  | .palettes    => Config.palBase
  | .bitmaps     => Config.bmpBase
  | .descriptors => Config.descBase

/-- The number of bytes of a zone: its element count times the element's bytes (20_memory.md R55). -/
def zoneBytes : Zone → Nat
  | .general     => Config.fbBase
  | .framebuffer => Config.fbW * Config.fbH * 2
  | .palettes    => Config.palCount * Config.palSize * 2
  | .bitmaps     => Config.bmpCount * Config.bmpBytes
  | .descriptors => Config.descCount * Config.descBytes

/-- `FbAddr(x, y)` (20_memory.md R57). -/
def fbAddr (x y : Nat) : Nat := Config.fbBase + 2 * (x + Config.fbW * y)

/-- `PalAddr(p, e)` (20_memory.md R58). -/
def palAddr (p e : Nat) : Nat := Config.palBase + 2 * (Config.palSize * p + e)

/-- The first byte of row `y` of bitmap `s` (20_memory.md R59). -/
def bmpRowAddr (s y : Nat) : Nat := Config.bmpBase + Config.bmpBytes * s + 4 * y

/-- `BmpByteAddr(s, x, y)` (20_memory.md R60). -/
def bmpByteAddr (s x y : Nat) : Nat := bmpRowAddr s y + x / 2

/-- `DescAddr(n)` (20_memory.md R61). -/
def descAddr (n : Nat) : Nat := Config.descBase + Config.descBytes * n

/-! ### Framebuffer -/

/-- The pixel `(x, y)` is one of the framebuffer's (20_memory.md R62). -/
abbrev onScreen (x y : Int) : Prop := (0 ≤ x ∧ x < Config.fbW) ∧ (0 ≤ y ∧ y < Config.fbH)

/-- `Plot(x, y, c)` (20_memory.md R62): the clipped pixel write. -/
def plot (x y : Int) (c : Word) (m : Memory) : Memory :=
  if onScreen x y then m.write16 (fbAddr x.toNat y.toNat) c else m

/-- The value of the framebuffer pixel `(x, y)` (20_memory.md R57). -/
def pixel (m : Memory) (x y : Nat) : Word := m.read16 (fbAddr x y)

/-! ### Bitmaps -/

/-- Bits 3:0 of a byte (00_scope.md R8). -/
def loNibble (b : Byte) : BitVec 4 := b.extractLsb' 0 4

/-- Bits 7:4 of a byte (00_scope.md R8). -/
def hiNibble (b : Byte) : BitVec 4 := b.extractLsb' 4 4

/-- `BmpGet(s, x, y)` (20_memory.md R60). -/
def bmpGet (m : Memory) (s x y : Nat) : BitVec 4 :=
  let b := m.read (bmpByteAddr s x y)
  if x % 2 = 0 then loNibble b else hiNibble b

/-- `BmpSet(s, x, y, v)` (20_memory.md R60): the other nibble of the byte stays. -/
def bmpSet (s x y : Nat) (v : BitVec 4) (m : Memory) : Memory :=
  let a := bmpByteAddr s x y
  let b := m.read a
  m.write a (if x % 2 = 0 then hiNibble b ++ v else v ++ loNibble b)

/-! ### Colors -/

/-- `Opaque(c)` (41_color_codec.md R121): the opacity bit. -/
def isOpaque (c : Word) : Bool := c.getLsbD 15

/-- The constant `TRANSPARENT` (41_color_codec.md R122). -/
def transparentColor : Word := 0x0000

/-- The constant `BLACK` (41_color_codec.md R122): opaque, all channels zero. -/
def blackColor : Word := 0x8000

/-- The constant `WHITE` (41_color_codec.md R122): opaque, all channels at their maximum. -/
def whiteColor : Word := 0xFFFF

/-- `PalColor(p, ci)` (41_color_codec.md R123). -/
def palColor (m : Memory) (p ci : Nat) : Word := m.read16 (palAddr p ci)

/-! ### Descriptors -/

/-- The fields of a descriptor (20_memory.md R61); reserved bits are not among them. -/
structure Descriptor where
  x     : Int
  y     : Int
  index : Nat
  pal   : Nat
  en    : Bool
  flipX : Bool
  flipY : Bool
  size  : BitVec 2
  deriving DecidableEq, Repr

/-- `DescRead(n)` (20_memory.md R61). -/
def descRead (m : Memory) (n : Nat) : Descriptor :=
  let d := descAddr n
  let f := m.read (d + 6)
  { x     := (m.read16 d).toInt
    y     := (m.read16 (d + 2)).toInt
    index := (m.read (d + 4)).toNat
    pal   := (loNibble (m.read (d + 5))).toNat
    en    := f.getLsbD 0
    flipX := f.getLsbD 1
    flipY := f.getLsbD 2
    size  := f.extractLsb' 3 2 }

/-- `N`, the tiles per axis of a descriptor (44_rasterizer.md R191). -/
def Descriptor.tiles (d : Descriptor) : Nat := Config.sizeTable d.size

end Sys2Proof.Machine
end

