-- ==== Sys2Proof/Machine/Framebuffer.lean ====
section
/-! DEFINITION. The framebuffer primitives (43_framebuffer.md R160 to R166). None tests the opacity bit (R166). -/

namespace Sys2Proof.Machine

/-- PSET (43_framebuffer.md R160). -/
def execPset (s : State) : StepResult :=
  runChecked .pset (fun s => s.setMem (plot (coordOperand s.arg0) (coordOperand s.arg1) s.arg2 s.mem)) s

/-- The effect of FILL on `MEM` (43_framebuffer.md R161): all `FB_W * FB_H` pixels, which lie one after the other
(20_memory.md R57; log entry 14). -/
def paintFill (c : Word) (m : Memory) : Memory :=
  m.writeWords Config.fbBase (List.replicate (Config.fbW * Config.fbH) c)

/-- FILL (43_framebuffer.md R161). -/
def execFill (s : State) : StepResult := runChecked .fill (fun s => s.setMem (paintFill s.arg0 s.mem)) s

/-- The on-screen part of the `n` coordinates from `v` on (20_memory.md R62): the first one and their number. It
is empty when `n` is not positive; `v + n` does not wrap (00_scope.md R9). -/
def clipSpan (v n : Int) (size : Nat) : Nat × Nat :=
  ((max v 0).toNat, (min (v + n) size - max v 0).toNat)

/-- The effect of RECT on `MEM` (43_framebuffer.md R162): rows `y` to `y+h-1`, columns `x` to `x+w-1`, none when
`h` or `w` is not positive, each row one contiguous span of what `Plot` keeps of it (20_memory.md R62; log
entry 14). -/
def paintRect (x y w h : Int) (c : Word) (m : Memory) : Memory :=
  let cols := clipSpan x w Config.fbW
  let rows := clipSpan y h Config.fbH
  loop rows.2 (fun j m => m.writeWords (fbAddr cols.1 (rows.1 + j)) (List.replicate cols.2 c)) m

/-- RECT (43_framebuffer.md R162). -/
def execRect (s : State) : StepResult :=
  runChecked .rect
    (fun s => s.setMem
      (paintRect (coordOperand s.arg0) (coordOperand s.arg1) (coordOperand s.arg2) (coordOperand s.arg3)
        s.arg4 s.mem)) s

/-- The integers `a, a+1, ..., b` (00_scope.md R10), none when `b < a`. -/
def intRange (a b : Int) : List Int := (List.range (b - a + 1).toNat).map fun k : Nat => a + (k : Int)

/-- The loop of the general case of LINE (43_framebuffer.md R163): the pixels it visits from `(x, y)` with error
accumulator `err`, in order. Both tests of a step use the same `e2`. `fuel` bounds the steps; the loop
leaves by its own test at `(x1, y1)` before it runs out (R164; log entry 10). -/
def bresenham (x1 y1 dx dy sx sy : Int) : Nat → Int → Int → Int → List (Int × Int)
  | 0, _, _, _ => []
  | fuel + 1, x, y, err =>
    if x = x1 ∧ y = y1 then [(x, y)]
    else
      let e2 := 2 * err
      let errX := if e2 ≥ dy then err + dy else err
      let x' := if e2 ≥ dy then x + sx else x
      let errXY := if e2 ≤ dx then errX + dx else errX
      let y' := if e2 ≤ dx then y + sy else y
      (x, y) :: bresenham x1 y1 dx dy sx sy fuel x' y' errXY

/-- The pixels LINE visits before clipping, in order (43_framebuffer.md R163): the horizontal, the vertical and the
general case. -/
def linePixels (x0 y0 x1 y1 : Int) : List (Int × Int) :=
  if y0 = y1 then (intRange (min x0 x1) (max x0 x1)).map fun x => (x, y0)
  else if x0 = x1 then (intRange (min y0 y1) (max y0 y1)).map fun y => (x0, y)
  else
    let dx : Int := (x1 - x0).natAbs
    let sx : Int := if x0 < x1 then 1 else -1
    let dy : Int := -(y1 - y0).natAbs
    let sy : Int := if y0 < y1 then 1 else -1
    bresenham x1 y1 dx dy sx sy ((x1 - x0).natAbs + (y1 - y0).natAbs + 1) x0 y0 (dx + dy)

/-- `Plot` of one color at each pixel of a list, in order. -/
def plotAll (ps : List (Int × Int)) (c : Word) (m : Memory) : Memory :=
  ps.foldl (fun m p => plot p.1 p.2 c m) m

/-- LINE (43_framebuffer.md R163). -/
def execLine (s : State) : StepResult :=
  runChecked .line
    (fun s => s.setMem
      (plotAll
        (linePixels (coordOperand s.arg0) (coordOperand s.arg1) (coordOperand s.arg2) (coordOperand s.arg3))
        s.arg4 s.mem)) s

/-- FBGET (43_framebuffer.md R165): the pixel of linear index `i` lies at `FB_BASE + 2*i`. -/
def execFbGet (s : State) : StepResult :=
  runChecked .fbGet (fun s => s.setRes0 (s.mem.read16 (Config.fbBase + 2 * s.arg0.toNat))) s

end Sys2Proof.Machine
end

