-- ==== Sys2Proof/Machine/MemoryCommands.lean ====
section
/-! DEFINITION. The memory and system commands (40_memory_commands.md R102 to R107). -/

namespace Sys2Proof.Machine

/-- NOP (40_memory_commands.md R102). -/
def execNop (s : State) : StepResult := runChecked .nop (fun s => s) s

/-- CLEAR (40_memory_commands.md R103; 70_reset_and_hazards.md R251). -/
def execClear (s : State) : StepResult := runChecked .clear (fun s => s.setMem Memory.cleared) s

/-- RD8 (40_memory_commands.md R104). -/
def execRd8 (s : State) : StepResult :=
  runChecked .rd8 (fun s => s.setRes0 (zextByte (s.mem.read s.address))) s

/-- WR8 (40_memory_commands.md R105). -/
def execWr8 (s : State) : StepResult :=
  runChecked .wr8 (fun s => s.setMem (s.mem.write s.address (loByte s.arg2))) s

/-- RD16 (40_memory_commands.md R106). -/
def execRd16 (s : State) : StepResult :=
  runChecked .rd16 (fun s => s.setRes0 (s.mem.read16 s.address)) s

/-- WR16 (40_memory_commands.md R107). -/
def execWr16 (s : State) : StepResult :=
  runChecked .wr16 (fun s => s.setMem (s.mem.write16 s.address s.arg2)) s

end Sys2Proof.Machine
end

