-- ==== Sys2Proof/Machine/Rasterizer.lean ====
section
/-! DEFINITION. The sprite rasterizer RASTER (44_rasterizer.md R190 to R201). -/

namespace Sys2Proof.Machine

/-- `FLIP ? n-1-i : i`, for a tile of the grid (44_rasterizer.md R194) and a pixel of a tile (R196). -/
def mirror (flip : Bool) (n i : Nat) : Nat := if flip then n - 1 - i else i

/-- The bitmap of the source tile `(stx, sty)` (44_rasterizer.md R195): the plain sum, modulo 256. -/
def tileBitmap (index stx sty : Nat) : Nat := (index + stx + sty * Config.bitmapsPerRow) % Config.bmpCount

/-- The bytes RASTER reads: the palette, bitmap and descriptor zones, which lie above the framebuffer (44_rasterizer.md
R190; 20_memory.md R55). RASTER never writes them, so it sees their values at its start (20_memory.md
R67; log entry 11). -/
def rasterSource (m : Memory) : Memory := m.filter fun c => Config.palBase ≤ c.1

/-- The color that descriptor `d` resolves for pixel `(x, y)` of destination tile `(tx, ty)` (44_rasterizer.md
R194 to R196), read in `src`. -/
def tileColor (src : Memory) (d : Descriptor) (tx ty x y : Nat) : Word :=
  let b := tileBitmap d.index (mirror d.flipX d.tiles tx) (mirror d.flipY d.tiles ty)
  palColor src d.pal (bmpGet src b (mirror d.flipX Config.cell x) (mirror d.flipY Config.cell y)).toNat

/-- One tile pixel of one descriptor (44_rasterizer.md R197, R198): written only if opaque, clipped by `plot`. -/
def rasterPixel (src : Memory) (d : Descriptor) (tx ty x y : Nat) (m : Memory) : Memory :=
  let c := tileColor src d tx ty x y
  if isOpaque c then plot (d.x + x + tx * Config.cell) (d.y + y + ty * Config.cell) c m else m

/-- One descriptor (44_rasterizer.md R190): skipped when not enabled (R193), else all its tiles. -/
def rasterDescriptor (src : Memory) (d : Descriptor) (m : Memory) : Memory :=
  if d.en then
    loop d.tiles (fun ty => loop d.tiles fun tx => loop Config.cell fun y => loop Config.cell fun x =>
      rasterPixel src d tx ty x y) m
  else m

/-- The effect of RASTER on `MEM`: the slots in ascending order (44_rasterizer.md R192); nothing is cleared
first (R201). -/
def paintRaster (m : Memory) : Memory :=
  let src := rasterSource m
  loop Config.descCount (fun n => rasterDescriptor src (descRead src n)) m

/-- RASTER (44_rasterizer.md R190). -/
def execRaster (s : State) : StepResult := runChecked .raster (fun s => s.setMem (paintRaster s.mem)) s

end Sys2Proof.Machine
end

