-- ==== Sys2Proof/Machine/SpriteStorage.lean ====
section
/-! DEFINITION. Sprite bitmap and palette storage (42_sprite_palette.md R140 to R144). -/

namespace Sys2Proof.Machine

/-- SPR_SET (42_sprite_palette.md R140). -/
def execSprSet (s : State) : StepResult :=
  runChecked .sprSet
    (fun s => s.setMem (bmpSet s.arg0.toNat s.arg1.toNat s.arg2.toNat (s.arg3.extractLsb' 0 4) s.mem)) s

/-- SPR_GET (42_sprite_palette.md R141). -/
def execSprGet (s : State) : StepResult :=
  runChecked .sprGet
    (fun s => s.setRes0 ((bmpGet s.mem s.arg0.toNat s.arg1.toNat s.arg2.toNat).setWidth 16)) s

/-- The effect of SPR_SETROW on `MEM` (42_sprite_palette.md R142): pixels 0 to 3, then 4 to 7. -/
def bmpSetRow (s y : Nat) (lo hi : Word) (m : Memory) : Memory := m.writeWords (bmpRowAddr s y) [lo, hi]

/-- SPR_SETROW (42_sprite_palette.md R142). -/
def execSprSetRow (s : State) : StepResult :=
  runChecked .sprSetRow
    (fun s => s.setMem (bmpSetRow s.arg0.toNat s.arg1.toNat s.arg2 s.arg3 s.mem)) s

/-- PAL_SET (42_sprite_palette.md R143). -/
def execPalSet (s : State) : StepResult :=
  runChecked .palSet (fun s => s.setMem (s.mem.write16 (palAddr s.arg0.toNat s.arg1.toNat) s.arg2)) s

/-- PAL_GET (42_sprite_palette.md R144). -/
def execPalGet (s : State) : StepResult :=
  runChecked .palGet (fun s => s.setRes0 (palColor s.mem s.arg0.toNat s.arg1.toNat)) s

end Sys2Proof.Machine
end

