-- ==== Sys2Proof/Machine/Dispatch.lean ====
section
/-! DEFINITION. The meaning of each instruction, one arm per constructor (30_encoding.md R82). -/

namespace Sys2Proof.Machine

def exec (i : Instr) (s : State) : Host.Outcome State Fault Refusal :=
  match i with
  | .nop => Sys2Proof.Machine.execNop s
  | .clear => Sys2Proof.Machine.execClear s
  | .rd8 => Sys2Proof.Machine.execRd8 s
  | .wr8 => Sys2Proof.Machine.execWr8 s
  | .rd16 => Sys2Proof.Machine.execRd16 s
  | .wr16 => Sys2Proof.Machine.execWr16 s
  | .encode => Sys2Proof.Machine.execEncode s
  | .decode => Sys2Proof.Machine.execDecode s
  | .sprSet => Sys2Proof.Machine.execSprSet s
  | .sprGet => Sys2Proof.Machine.execSprGet s
  | .sprSetRow => Sys2Proof.Machine.execSprSetRow s
  | .palSet => Sys2Proof.Machine.execPalSet s
  | .palGet => Sys2Proof.Machine.execPalGet s
  | .pset => Sys2Proof.Machine.execPset s
  | .fill => Sys2Proof.Machine.execFill s
  | .rect => Sys2Proof.Machine.execRect s
  | .line => Sys2Proof.Machine.execLine s
  | .fbGet => Sys2Proof.Machine.execFbGet s
  | .raster => Sys2Proof.Machine.execRaster s

end Sys2Proof.Machine
end

