-- ==== Sys2Proof/Machine/HostPort.lean ====
section
/-! DEFINITION. The host port (10_state.md R20, R24, R32): what one host transaction does. -/

namespace Sys2Proof.Machine

/-- A host write of `w` to CMD (10_state.md R24): `w` is stored first, then the engine runs the command it encodes
to its end. A word that encodes none raises ILLEGAL_CMD (30_encoding.md R83), whatever the decoder's
reason, before any operand is read (60_exceptions.md R223). -/
def startCommand (w : Word) (s : State) : StepResult :=
  match decode w with
  | .ok i => exec i (s.setCmd w)
  | .error _ => raise .illegalCmd (s.setCmd w)

/-- `HostRead(n)` (10_state.md R30, R32): it answers the register's value and changes no register and no byte. -/
def hostRead (n : BitVec 4) (rest : List Input) (s : State) : StepResult :=
  .next (s.setPort rest (some (s.readReg (regOfNumber n))))

/-- `HostWrite(n, v)` (10_state.md R24, R25, R31, R32): a write to CMD runs the command before it completes. -/
def hostWrite (n : BitVec 4) (v : Word) (rest : List Input) (s : State) : StepResult :=
  match regOfNumber n with
  | .cmd => startCommand v (s.setPort rest none)
  | r => .next ((s.setPort rest none).writeReg r v)

/-- The next thing the outside does to the block, the rest staying in order (10_state.md R20, R32). With nothing
pending the block is idle and keeps all state (60_exceptions.md R237; log entry 3). -/
def serve (s : State) : StepResult :=
  match s.inputs with
  | [] => .next s
  | .read n :: rest => hostRead n rest s
  | .write n v :: rest => hostWrite n v rest s
  | .reset :: rest => .next (hardwareReset (s.setPort rest none))

/-- The host's next transaction becomes the write of `w` to CMD, ahead of those already pending. -/
def issueCommand (w : Word) (s : State) : State := s.setPort (.write 0x0 w :: s.inputs) s.response

end Sys2Proof.Machine
end

