-- ==== Sys2Proof/Machine/Step.lean ====
section
/-! DEFINITION. One step of the machine: one host transaction (00_scope.md R4; 10_state.md R32). -/

namespace Sys2Proof.Machine

/-- One step (10_state.md R32): the host's next transaction, complete with the command it starts. -/
def step (s : State) : Host.Outcome State Fault Refusal := serve s

/-- The state whose next step runs the command word given by the low `nbits` bits of `w`: the host's next
transaction writes it to CMD (10_state.md R24; log entry 1). -/
def State.withFetchWord (s : State) (nbits w : Nat) : State :=
  issueCommand (BitVec.ofNat 16 (w % 2 ^ nbits)) s

end Sys2Proof.Machine
end

