-- ==== Sys2Proof/Machine/Assembler.lean ====
section
/-! DEFINITION. The assembler of 30_encoding.md R87 and its pseudo-instructions (R89): a line becomes host
transactions. No part of the block reads these definitions. -/

namespace Sys2Proof.Machine

/-- The 16 bits of a number, two's complement when negative (30_encoding.md R87). -/
def wordOfInt (v : Int) : Word := BitVec.ofInt 16 v

/-- The ARG writes of a line's operands in ascending order, from register number `k` on (30_encoding.md R87). An
address is split over two registers: `addr[15:0]`, then the bits above. -/
def argWrites (k : Nat) : List OperandKind → List Int → List Input
  | .addr _ :: ks, v :: vs =>
    .write (BitVec.ofNat 4 k) (wordOfInt (v % 65536)) ::
      .write (BitVec.ofNat 4 (k + 1)) (wordOfInt (v / 65536)) :: argWrites (k + 2) ks vs
  | .byte :: ks, v :: vs | .idx _ :: ks, v :: vs | .coord :: ks, v :: vs | .raw16 :: ks, v :: vs =>
    .write (BitVec.ofNat 4 k) (wordOfInt v) :: argWrites (k + 1) ks vs
  | _, _ => []

/-- The assembled form of a line (30_encoding.md R87): its ARG writes, then the command word to CMD. No ARG write
is left out (log entry 9). -/
def assembleLine (l : Line) : List Input :=
  argWrites 1 l.instr.operands l.ops ++ [.write 0x0 (encode l.instr)]

/-- `SPR_SETROW s, k, rkl, rkh` for each row from `k` on (30_encoding.md R89). -/
def rowLines (s : Int) (k : Nat) : List Int → List Line
  | lo :: hi :: rows => ⟨.sprSetRow, [s, k, lo, hi]⟩ :: rowLines s (k + 1) rows
  | _ => []

/-- The expansions of 30_encoding.md R89. -/
def expandPseudo : Pseudo → List Line
  | .reset => [⟨.clear, []⟩]
  | .cls c => [⟨.fill, [c]⟩]
  | .hline x0 x1 y c => [⟨.line, [x0, y, x1, y, c]⟩]
  | .vline x y0 y1 c => [⟨.line, [x, y0, x, y1, c]⟩]
  | .sprLoad s rows => rowLines s 0 rows
  | .desc n x y idx pal flags =>
    let d : Int := descAddr n.toNat
    [⟨.wr16, [d, (wordOfInt x).toNat]⟩, ⟨.wr16, [d + 2, (wordOfInt y).toNat]⟩,
     ⟨.wr16, [d + 4, idx + 256 * pal]⟩, ⟨.wr16, [d + 6, flags]⟩]
  | .descOff n => [⟨.wr8, [descAddr n.toNat + 6, 0]⟩]

/-- The assembled form of a pseudo-instruction: that of its lines, one after the other (30_encoding.md R89). -/
def assemblePseudo (p : Pseudo) : List Input := (expandPseudo p).flatMap assembleLine

/-! ### The text of a line (30_encoding.md R87; log entry 9) -/

/-- The mnemonics of 30_encoding.md R82. -/
def instrOfMnemonic (name : String) : Option Instr :=
  match name with
  | "NOP" => some .nop
  | "CLEAR" => some .clear
  | "RD8" => some .rd8
  | "WR8" => some .wr8
  | "RD16" => some .rd16
  | "WR16" => some .wr16
  | "ENCODE" => some .encode
  | "DECODE" => some .decode
  | "SPR_SET" => some .sprSet
  | "SPR_GET" => some .sprGet
  | "SPR_SETROW" => some .sprSetRow
  | "PAL_SET" => some .palSet
  | "PAL_GET" => some .palGet
  | "PSET" => some .pset
  | "FILL" => some .fill
  | "RECT" => some .rect
  | "LINE" => some .line
  | "FBGET" => some .fbGet
  | "RASTER" => some .raster
  | _ => none

/-- The pseudo-instructions of 30_encoding.md R89 by name and number of operands. -/
def pseudoOfMnemonic (name : String) (ops : List Int) : Option Pseudo :=
  match name, ops with
  | "RESET", [] => some .reset
  | "CLS", [c] => some (.cls c)
  | "HLINE", [x0, x1, y, c] => some (.hline x0 x1 y c)
  | "VLINE", [x, y0, y1, c] => some (.vline x y0 y1 c)
  | "SPR_LOAD", s :: rows => some (.sprLoad s rows)
  | "DESC", [n, x, y, idx, pal, flags] => some (.desc n x y idx pal flags)
  | "DESC_OFF", [n] => some (.descOff n)
  | _, _ => none

/-- The value of a digit below `base`. -/
def digitValue (base : Nat) (c : Char) : Option Nat :=
  let v := if '0' ≤ c ∧ c ≤ '9' then c.toNat - '0'.toNat
    else if 'a' ≤ c ∧ c ≤ 'f' then c.toNat - 'a'.toNat + 10
    else if 'A' ≤ c ∧ c ≤ 'F' then c.toNat - 'A'.toNat + 10
    else base
  if v < base then some v else none

/-- Digits read after the value `acc`. -/
def parseDigits (base : Nat) (acc : Nat) : List Char → Option Nat
  | [] => some acc
  | c :: cs => match digitValue base c with
    | some v => parseDigits base (acc * base + v) cs
    | none => none

/-- A number of at least one digit. -/
def parseNat (base : Nat) (cs : List Char) : Option Nat := if cs = [] then none else parseDigits base 0 cs

/-- A number of a line (30_encoding.md R87): decimal, hexadecimal with `0x`, or negative decimal. -/
def parseNumber : List Char → Option Int
  | '0' :: 'x' :: cs => (parseNat 16 cs).map Int.ofNat
  | '-' :: cs => (parseNat 10 cs).map fun n => -(n : Int)
  | cs => (parseNat 10 cs).map Int.ofNat

/-- A blank between the parts of a line. -/
def isBlank (c : Char) : Bool := c = ' ' || c = '\t'

/-- The text without the blanks at its two ends. -/
def trimBlanks (cs : List Char) : List Char := ((cs.dropWhile isBlank).reverse.dropWhile isBlank).reverse

/-- The operands of a line, separated by commas; nothing is no operand. -/
def parseOperands (cs : List Char) : Option (List Int) :=
  if trimBlanks cs = [] then some []
  else (cs.splitOn ',').mapM fun op => parseNumber (trimBlanks op)

/-- The lines a line of text stands for (30_encoding.md R87, R89): none for a blank or comment line, one for a
command, its expansion for a pseudo-instruction. `none` where the text is no line or a number does not
fit its operand. -/
def parseLine (text : String) : Option (List Line) :=
  let cs := trimBlanks (text.toList.takeWhile (· ≠ ';'))
  if cs = [] then some []
  else
    let name := String.ofList (cs.takeWhile fun c => !isBlank c)
    match parseOperands (cs.dropWhile fun c => !isBlank c) with
    | none => none
    | some ops =>
      match instrOfMnemonic name with
      | some i => if (Line.mk i ops).wellFormed then some [⟨i, ops⟩] else none
      | none =>
        match pseudoOfMnemonic name ops with
        | some p => if p.wellFormed then some (expandPseudo p) else none
        | none => none

/-- The host transactions of a program text, one line of text per list entry (30_encoding.md R87). -/
def assembleText (lines : List String) : Option (List Input) :=
  (lines.mapM parseLine).map fun ls => ls.flatten.flatMap assembleLine

end Sys2Proof.Machine
end

