-- ==== Sys2Proof/Safety.lean ====
section
/-! DEFINITION. The terms the statements use: the invariant of the machine, what a command leaves unchanged, and
the color a descriptor gives a framebuffer pixel. -/

namespace Sys2Proof.Machine

/-- The legal values of STATUS (10_state.md R27). -/
def legalStatus : List Word := [0x0000, 0x0011, 0x0021, 0x0031]

/-- The invariant: `MEM` is in canonical form, so no address outside it is ever listed, and STATUS holds one of
its legal values (10_state.md R27). -/
structure State.Inv (s : State) : Prop where
  mem_wf : s.mem.wf = true
  status_legal : s.status ∈ legalStatus

/-- No command changes these: CMD, the ARG registers (10_state.md R25) and the host port. -/
structure SameOperands (s t : State) : Prop where
  cmd : t.cmd = s.cmd
  args : t.args = s.args
  inputs : t.inputs = s.inputs
  response : t.response = s.response

/-- The three result registers are unchanged (10_state.md R26). -/
structure SameResults (s t : State) : Prop where
  res0 : t.res0 = s.res0
  res1 : t.res1 = s.res1
  res2 : t.res2 = s.res2

/-- A byte of the zone `z` (20_memory.md R55, R56). -/
def inZone (z : Zone) (a : Nat) : Prop := zoneFirst z ≤ a ∧ a < zoneFirst z + zoneBytes z

/-- Every byte outside `p` reads as before. -/
def SameMemOutside (p : Nat → Prop) (s t : State) : Prop := ∀ a, ¬ p a → t.mem.read a = s.mem.read a

/-- A run of the machine that can always go on: no step faults and none is refused. -/
def neverStops (s : State) : Prop := ∀ k, ∃ t, core.run k s = .next t

/-- The address operand of a memory command as 40_memory_commands.md R100 writes it. -/
def operandAddress (s : State) : Nat := s.arg1.toNat * 65536 + s.arg0.toNat

/-- The values of the ARG registers that a line lists (30_encoding.md R84, R85, R87), from ARG0 on: an address `a` is
`a[15:0]` and the bits above, and every other operand its 16-bit two's complement. -/
def operandWords : List OperandKind → List Int → List Word
  | .addr _ :: ks, v :: vs =>
    BitVec.ofNat 16 v.toNat :: BitVec.ofNat 16 (v.toNat / 65536) :: operandWords ks vs
  | .byte :: ks, v :: vs | .idx _ :: ks, v :: vs | .coord :: ks, v :: vs | .raw16 :: ks, v :: vs =>
    BitVec.ofInt 16 v :: operandWords ks vs
  | _, _ => []

/-- The state with `ws` in the first ARG registers, the others unchanged (10_state.md R25). -/
def State.withOperands (s : State) (ws : List Word) : State :=
  { s with
    arg0 := ws.getD 0 s.arg0
    arg1 := ws.getD 1 s.arg1
    arg2 := ws.getD 2 s.arg2
    arg3 := ws.getD 3 s.arg3
    arg4 := ws.getD 4 s.arg4 }

/-- The loop of the general case of LINE exactly as 43_framebuffer.md R163 writes it, with no bound on its passes:
from `(x, y)` with error accumulator `err` it visits `ps` and leaves at `(x1, y1)`. -/
inductive LineLoop (x1 y1 dx dy sx sy : Int) : Int → Int → Int → List (Int × Int) → Prop
  | exit (err : Int) : LineLoop x1 y1 dx dy sx sy x1 y1 err [(x1, y1)]
  | pass {x y err : Int} {ps : List (Int × Int)} (away : ¬(x = x1 ∧ y = y1))
      (next : LineLoop x1 y1 dx dy sx sy (if 2 * err ≥ dy then x + sx else x) (if 2 * err ≤ dx then y + sy else y)
        (err + (if 2 * err ≥ dy then dy else 0) + (if 2 * err ≤ dx then dx else 0)) ps) :
      LineLoop x1 y1 dx dy sx sy x y err ((x, y) :: ps)

/-- A king's move that never goes back in x or in y on the way from `(x0, y0)` to `(x1, y1)` (43_framebuffer.md
R164). -/
def lineStep (x0 y0 x1 y1 : Int) (p q : Int × Int) : Prop :=
  p ≠ q ∧ (q.1 - p.1 = 0 ∨ q.1 - p.1 = (x1 - x0).sign) ∧ (q.2 - p.2 = 0 ∨ q.2 - p.2 = (y1 - y0).sign)

/-- The pixels `ps` start at `(x0, y0)`, end at `(x1, y1)`, and each is a king's move from the one before that never
goes back (43_framebuffer.md R164). -/
structure VisitsFromTo (x0 y0 x1 y1 : Int) (ps : List (Int × Int)) : Prop where
  first : ps.head? = some (x0, y0)
  last : ps.getLast? = some (x1, y1)
  moves : ps.IsChain (lineStep x0 y0 x1 y1)

/-- The pseudocode of FILL (43_framebuffer.md R161): `Plot` over every pixel. -/
def fillByPlot (c : Word) : Memory → Memory := loop 128 fun y => loop 128 fun x => plot x y c

/-- The pseudocode of RECT (43_framebuffer.md R162): `Plot` over rows `y..y+h-1` and columns `x..x+w-1`. -/
def rectByPlot (x y w h : Int) (c : Word) : Memory → Memory :=
  loop h.toNat fun j => loop w.toNat fun i => plot (x + i) (y + j) c

/-- The pseudocode of RASTER (44_rasterizer.md R190), which reads each descriptor, bitmap pixel and palette entry
from `MEM` as it then is. -/
def rasterByPlot : Memory → Memory :=
  loop 128 fun n m =>
    let d := descRead m n
    if d.en then
      loop d.tiles (fun ty => loop d.tiles fun tx => loop 8 fun y => loop 8 fun x m =>
        let stx := if d.flipX then d.tiles - 1 - tx else tx
        let sty := if d.flipY then d.tiles - 1 - ty else ty
        let b := (d.index + stx + sty * 16) % 256
        let px := if d.flipX then 7 - x else x
        let py := if d.flipY then 7 - y else y
        let c := palColor m d.pal (bmpGet m b px py).toNat
        if isOpaque c then plot (d.x + x + tx * 8) (d.y + y + ty * 8) c m else m) m
    else m

/-- The color descriptor `d` paints at framebuffer coordinates `(px, py)`, if it paints there at all: enabled
(44_rasterizer.md R193), inside its `8N × 8N` square (R197), and opaque (R198). The source column is
mirrored over the WHOLE square under FLIPX, the row under FLIPY (R199). -/
def descriptorColor (m : Memory) (d : Descriptor) (px py : Int) : Option Word :=
  let side := Config.cell * d.tiles
  let u := (px - d.x).toNat
  let v := (py - d.y).toNat
  if d.en ∧ d.x ≤ px ∧ px < d.x + side ∧ d.y ≤ py ∧ py < d.y + side then
    let su := if d.flipX then side - 1 - u else u
    let sv := if d.flipY then side - 1 - v else v
    let b := (d.index + su / 8 + sv / 8 * Config.bitmapsPerRow) % Config.bmpCount
    let c := palColor m d.pal (bmpGet m b (su % 8) (sv % 8)).toNat
    if isOpaque c then some c else none
  else none

/-- A pixel after the slots of `ns` in their order, over the color `old` (44_rasterizer.md R192, R198, R201): a
later slot that paints it wins. -/
def compositePixel (m : Memory) (ns : List Nat) (px py : Int) (old : Word) : Word :=
  ns.foldl (fun c n => (descriptorColor m (descRead m n) px py).getD c) old

end Sys2Proof.Machine
end

