-- ==== Sys2Proof/Certificates/Slice0/Obligations.lean ====
section
/-! DEFINITION. The statements about the machine, each from the rules its docstring names. The host's transactions
stand in the field `inputs` and its answers in `response`: the model's forms for them (log entries 1 and 2), not
registers of the spec. -/

open Sys2Proof Sys2Proof.Machine

/-! ### Decoding (30_encoding.md) -/

/-- R82: the command word of each of the 19 commands decodes to it. -/
def Obligations.TableWordsDecode : Prop :=
  decode 0x0000 = .ok .nop ∧ decode 0x0001 = .ok .clear ∧ decode 0x0002 = .ok .rd8 ∧
  decode 0x0003 = .ok .wr8 ∧ decode 0x0004 = .ok .rd16 ∧ decode 0x0005 = .ok .wr16 ∧
  decode 0x0010 = .ok .encode ∧ decode 0x0011 = .ok .decode ∧ decode 0x0020 = .ok .sprSet ∧
  decode 0x0021 = .ok .sprGet ∧ decode 0x0022 = .ok .sprSetRow ∧ decode 0x0028 = .ok .palSet ∧
  decode 0x0029 = .ok .palGet ∧ decode 0x0030 = .ok .pset ∧ decode 0x0031 = .ok .fill ∧
  decode 0x0032 = .ok .rect ∧ decode 0x0033 = .ok .line ∧ decode 0x0034 = .ok .fbGet ∧
  decode 0x0040 = .ok .raster

/-- R80, R82: a word is a command's encoding exactly when it decodes to that command. -/
def Obligations.DecodeInvertsEncode : Prop :=
  ∀ (w : Word) (i : Instr), decode w = .ok i ↔ w = encode i

/-- R83: every word but those of R82 is illegal: the host's write of it leaves CMD holding it and STATUS reporting
ILLEGAL_CMD, and changes nothing else of the block. That the write leaves the queue `inputs` and no answer in
`response` is the model's form of a transaction (log entries 1 and 2). -/
def Obligations.OtherWordsAreIllegal : Prop :=
  ∀ (w : Word) (s : State) (rest : List Input),
    w ∉ ([0x0000, 0x0001, 0x0002, 0x0003, 0x0004, 0x0005, 0x0010, 0x0011, 0x0020, 0x0021, 0x0022, 0x0028,
      0x0029, 0x0030, 0x0031, 0x0032, 0x0033, 0x0034, 0x0040] : List Word) →
    s.inputs = .write 0x0 w :: rest →
    step s = .next { s with cmd := w, status := 0x0011, inputs := rest, response := none }

/-- R24, R32: a host write of a command's word to CMD stores the word, takes the transaction off the queue, and
runs the command. The queue and the empty `response` are the model's (log entries 1 and 2). -/
def Obligations.StepRunsDecodedCommand : Prop :=
  ∀ (s : State) (w : Word) (i : Instr) (rest : List Input),
    s.inputs = .write 0x0 w :: rest → decode w = .ok i →
    step s = exec i { s with cmd := w, inputs := rest, response := none }

/-! ### The memory and system commands (40_memory_commands.md) -/

/-- R102. -/
def Obligations.NopOnlyClearsStatus : Prop :=
  encode .nop = 0x0000 ∧ decode 0x0100 = .error .reservedNonzero ∧
  ∀ s, exec .nop s = .next { s with status := 0x0000 }

/-- R103: CLEAR zeroes every byte, so every palette entry, bitmap pixel, descriptor and framebuffer pixel, and
leaves every register but STATUS. -/
def Obligations.ClearZeroesMemory : Prop :=
  encode .clear = 0x0001 ∧
  ∀ s, ∃ t, exec .clear s = .next t ∧
    (∀ a, t.mem.read a = 0x00) ∧ (∀ p e, palColor t.mem p e = 0x0000) ∧ (∀ b x y, bmpGet t.mem b x y = 0) ∧
    (∀ n, descRead t.mem n = ⟨0, 0, 0, 0, false, false, false, 0⟩) ∧ (∀ x y, pixel t.mem x y = 0x0000) ∧
    SameOperands s t ∧ SameResults s t ∧ t.status = 0x0000

/-- R104. -/
def Obligations.Rd8ReadsOneByte : Prop :=
  encode .rd8 = 0x0002 ∧
  ∀ s, (operandAddress s + 1 ≤ 131072 →
      exec .rd8 s = .next { s with res0 := (s.mem.read (operandAddress s)).setWidth 16, status := 0x0000 }) ∧
    (131072 < operandAddress s + 1 → exec .rd8 s = .next { s with status := 0x0031 })

/-- R105. -/
def Obligations.Wr8WritesOneByte : Prop :=
  encode .wr8 = 0x0003 ∧
  ∀ s, (operandAddress s + 1 ≤ 131072 → s.arg2.toNat ≤ 255 →
      ∃ t, exec .wr8 s = .next t ∧ t.mem.read (operandAddress s) = BitVec.ofNat 8 s.arg2.toNat ∧
        SameMemOutside (fun a => a = operandAddress s) s t ∧ SameOperands s t ∧ SameResults s t ∧
        t.status = 0x0000) ∧
    (operandAddress s + 1 ≤ 131072 → 255 < s.arg2.toNat → exec .wr8 s = .next { s with status := 0x0021 }) ∧
    (131072 < operandAddress s + 1 → exec .wr8 s = .next { s with status := 0x0031 })

/-- R106. -/
def Obligations.Rd16ReadsLittleEndian : Prop :=
  encode .rd16 = 0x0004 ∧
  ∀ s, (operandAddress s + 2 ≤ 131072 →
      exec .rd16 s = .next { s with
        res0 := s.mem.read (operandAddress s + 1) ++ s.mem.read (operandAddress s), status := 0x0000 }) ∧
    (131072 < operandAddress s + 2 → exec .rd16 s = .next { s with status := 0x0031 })

/-- R107: both bytes, the lower address first, or neither; at a pixel's address it is PSET. -/
def Obligations.Wr16WritesLittleEndian : Prop :=
  encode .wr16 = 0x0005 ∧
  ∀ s, (operandAddress s + 2 ≤ 131072 →
      ∃ t, exec .wr16 s = .next t ∧
        t.mem.read (operandAddress s) = s.arg2.extractLsb' 0 8 ∧
        t.mem.read (operandAddress s + 1) = s.arg2.extractLsb' 8 8 ∧
        SameMemOutside (fun a => a = operandAddress s ∨ a = operandAddress s + 1) s t ∧
        (∀ x y : Nat, x < 128 → y < 128 → operandAddress s = 0x15A00 + 2 * (x + 128 * y) →
          t.mem = plot x y s.arg2 s.mem) ∧
        SameOperands s t ∧ SameResults s t ∧ t.status = 0x0000) ∧
    (131072 < operandAddress s + 2 → exec .wr16 s = .next { s with status := 0x0031 })

/-- R101: the range check of the four memory commands, for an access of `n` bytes: an illegal address raises
ADDR_RANGE and nothing else happens; a legal one never raises it. -/
def Obligations.MemoryCommandsCheckRange : Prop :=
  ∀ i n, (i, n) ∈ ([(.rd8, 1), (.wr8, 1), (.rd16, 2), (.wr16, 2)] : List (Instr × Nat)) → ∀ s,
    (131072 < operandAddress s + n → exec i s = .next { s with status := 0x0031 }) ∧
    (operandAddress s + n ≤ 131072 → ∃ t, exec i s = .next t ∧ t.status ≠ 0x0031)

/-- R51, R52: what WR16 stored at any address, odd ones included, RD16 reads back whole, and RD8 reads as low
byte first. -/
def Obligations.MixedWidthsSeeSameBytes : Prop :=
  ∀ s t, operandAddress s + 2 ≤ 131072 → exec .wr16 s = .next t →
    exec .rd16 t = .next { t with res0 := s.arg2, status := 0x0000 } ∧
    exec .rd8 t = .next { t with res0 := s.arg2 &&& 0x00FF, status := 0x0000 } ∧
    ∀ lo hi : Word, hi.toNat * 65536 + lo.toNat = operandAddress s + 1 →
      exec .rd8 { t with arg0 := lo, arg1 := hi } =
        .next { t with arg0 := lo, arg1 := hi, res0 := s.arg2 >>> 8, status := 0x0000 }

/-- R54: a write of the value a byte already holds changes nothing, STATUS apart. -/
def Obligations.RewriteOfSameByteChangesNothing : Prop :=
  ∀ s, s.Inv → operandAddress s + 1 ≤ 131072 → s.arg2.toNat ≤ 255 →
    s.mem.read (operandAddress s) = s.arg2.extractLsb' 0 8 →
    exec .wr8 s = .next { s with status := 0x0000 }

/-! ### The color codec (41_color_codec.md) -/

/-- R124. -/
def Obligations.EncodePacksChannels : Prop :=
  encode .encode = 0x0010 ∧
  ∀ s, (s.arg0.toNat ≤ 255 → s.arg1.toNat ≤ 255 → s.arg2.toNat ≤ 255 →
      exec .encode s = .next { s with
        res0 := BitVec.ofNat 16
          (32768 + s.arg0.toNat / 8 * 1024 + s.arg1.toNat / 8 * 32 + s.arg2.toNat / 8),
        status := 0x0000 }) ∧
    ((255 < s.arg0.toNat ∨ 255 < s.arg1.toNat ∨ 255 < s.arg2.toNat) →
      exec .encode s = .next { s with status := 0x0021 })

/-- R125. -/
def Obligations.DecodeUnpacksChannels : Prop :=
  encode .decode = 0x0011 ∧
  ∀ s, exec .decode s = .next { s with
    res0 := BitVec.ofNat 16 (s.arg0.toNat / 1024 % 32 * 8)
    res1 := BitVec.ofNat 16 (s.arg0.toNat / 32 % 32 * 8)
    res2 := BitVec.ofNat 16 (s.arg0.toNat % 32 * 8)
    status := 0x0000 }

/-- R126: both round trips, and the opacity bit that ENCODE always sets. -/
def Obligations.ColorRoundTrips : Prop :=
  (∀ s, s.arg0.toNat ≤ 255 → s.arg1.toNat ≤ 255 → s.arg2.toNat ≤ 255 →
    ∃ t, exec .encode s = .next t ∧ t.res0.getLsbD 15 = true ∧
      exec .decode { t with arg0 := t.res0 } = .next { t with
        arg0 := t.res0
        res0 := (s.arg0 >>> 3) <<< 3
        res1 := (s.arg1 >>> 3) <<< 3
        res2 := (s.arg2 >>> 3) <<< 3
        status := 0x0000 }) ∧
  (∀ s, ∃ t, exec .decode s = .next t ∧
    exec .encode { t with arg0 := t.res0, arg1 := t.res1, arg2 := t.res2 } = .next { t with
      arg0 := t.res0, arg1 := t.res1, arg2 := t.res2, res0 := s.arg0 ||| 0x8000, status := 0x0000 })

/-- R121, R122: the three named colors: what makes each opaque or transparent, what DECODE gives of BLACK and WHITE,
and the channels ENCODE makes them from. -/
def Obligations.NamedColors : Prop :=
  transparentColor = 0x0000 ∧ blackColor = 0x8000 ∧ whiteColor = 0xFFFF ∧
  isOpaque transparentColor = false ∧ isOpaque blackColor = true ∧ isOpaque whiteColor = true ∧
  (∀ s, s.arg0 = blackColor → exec .decode s = .next { s with res0 := 0, res1 := 0, res2 := 0, status := 0x0000 }) ∧
  (∀ s, s.arg0 = whiteColor →
    exec .decode s = .next { s with res0 := 248, res1 := 248, res2 := 248, status := 0x0000 }) ∧
  (∀ s, s.arg0 = 0 → s.arg1 = 0 → s.arg2 = 0 →
    exec .encode s = .next { s with res0 := blackColor, status := 0x0000 }) ∧
  (∀ s, s.arg0 = 255 → s.arg1 = 255 → s.arg2 = 255 →
    exec .encode s = .next { s with res0 := whiteColor, status := 0x0000 })

/-! ### Sprite and palette storage (42_sprite_palette.md) -/

/-- R140: SPR_SET changes the nibble of its pixel and no other. -/
def Obligations.SprSetChangesOneNibble : Prop :=
  encode .sprSet = 0x0020 ∧
  ∀ s, (s.arg0.toNat < 256 → s.arg1.toNat < 8 → s.arg2.toNat < 8 → s.arg3.toNat < 16 →
      ∃ t, exec .sprSet s = .next t ∧
        (∀ b x y, x < 8 → y < 8 → bmpGet t.mem b x y =
          if b = s.arg0.toNat ∧ x = s.arg1.toNat ∧ y = s.arg2.toNat then BitVec.ofNat 4 s.arg3.toNat
          else bmpGet s.mem b x y) ∧
        SameMemOutside (fun a => a = bmpByteAddr s.arg0.toNat s.arg1.toNat s.arg2.toNat) s t ∧
        SameOperands s t ∧ SameResults s t ∧ t.status = 0x0000) ∧
    ((256 ≤ s.arg0.toNat ∨ 8 ≤ s.arg1.toNat ∨ 8 ≤ s.arg2.toNat ∨ 16 ≤ s.arg3.toNat) →
      exec .sprSet s = .next { s with status := 0x0021 })

/-- R141: SPR_GET reads one nibble, and after SPR_SET of a pixel it reads the index just set. -/
def Obligations.SprGetReadsOneNibble : Prop :=
  encode .sprGet = 0x0021 ∧
  (∀ s, (s.arg0.toNat < 256 → s.arg1.toNat < 8 → s.arg2.toNat < 8 →
      exec .sprGet s = .next { s with
        res0 := (bmpGet s.mem s.arg0.toNat s.arg1.toNat s.arg2.toNat).setWidth 16, status := 0x0000 }) ∧
    ((256 ≤ s.arg0.toNat ∨ 8 ≤ s.arg1.toNat ∨ 8 ≤ s.arg2.toNat) →
      exec .sprGet s = .next { s with status := 0x0021 })) ∧
  (∀ s t, s.arg0.toNat < 256 → s.arg1.toNat < 8 → s.arg2.toNat < 8 → s.arg3.toNat < 16 →
    exec .sprSet s = .next t → exec .sprGet t = .next { t with res0 := s.arg3, status := 0x0000 })

/-- R142: SPR_SETROW stores the four bytes of a row, so pixel `x` is nibble `x` of the two words, and the result is
that of eight SPR_SETs. -/
def Obligations.SprSetRowWritesFourBytes : Prop :=
  encode .sprSetRow = 0x0022 ∧
  ∀ s, (s.arg0.toNat < 256 → s.arg1.toNat < 8 →
      ∃ t, exec .sprSetRow s = .next t ∧
        (let a := 0x1DC00 + 32 * s.arg0.toNat + 4 * s.arg1.toNat
         t.mem.read a = s.arg2.extractLsb' 0 8 ∧ t.mem.read (a + 1) = s.arg2.extractLsb' 8 8 ∧
         t.mem.read (a + 2) = s.arg3.extractLsb' 0 8 ∧ t.mem.read (a + 3) = s.arg3.extractLsb' 8 8 ∧
         SameMemOutside (fun b => a ≤ b ∧ b < a + 4) s t) ∧
        (∀ x, x < 4 → bmpGet t.mem s.arg0.toNat x s.arg1.toNat = s.arg2.extractLsb' (4 * x) 4 ∧
          bmpGet t.mem s.arg0.toNat (x + 4) s.arg1.toNat = s.arg3.extractLsb' (4 * x) 4) ∧
        (∀ a, t.mem.read a = ((List.range 8).foldl (fun m x => bmpSet s.arg0.toNat x s.arg1.toNat
          (if x < 4 then s.arg2.extractLsb' (4 * x) 4 else s.arg3.extractLsb' (4 * (x - 4)) 4) m) s.mem).read a) ∧
        SameOperands s t ∧ SameResults s t ∧ t.status = 0x0000) ∧
    ((256 ≤ s.arg0.toNat ∨ 8 ≤ s.arg1.toNat) → exec .sprSetRow s = .next { s with status := 0x0021 })

/-- R143: PAL_SET stores one palette entry, low byte first, and no other byte. -/
def Obligations.PalSetWritesOneEntry : Prop :=
  encode .palSet = 0x0028 ∧
  ∀ s, (s.arg0.toNat < 16 → s.arg1.toNat < 16 →
      ∃ t, exec .palSet s = .next t ∧
        (let a := 0x1DA00 + 2 * (16 * s.arg0.toNat + s.arg1.toNat)
         t.mem.read a = s.arg2.extractLsb' 0 8 ∧ t.mem.read (a + 1) = s.arg2.extractLsb' 8 8 ∧
         SameMemOutside (fun b => b = a ∨ b = a + 1) s t) ∧
        SameOperands s t ∧ SameResults s t ∧ t.status = 0x0000) ∧
    ((16 ≤ s.arg0.toNat ∨ 16 ≤ s.arg1.toNat) → exec .palSet s = .next { s with status := 0x0021 })

/-- R144: PAL_GET reads one palette entry; after PAL_SET it reads the color just set. -/
def Obligations.PalGetReadsOneEntry : Prop :=
  encode .palGet = 0x0029 ∧
  (∀ s, (s.arg0.toNat < 16 → s.arg1.toNat < 16 →
      exec .palGet s = .next { s with
        res0 := s.mem.read (0x1DA00 + 2 * (16 * s.arg0.toNat + s.arg1.toNat) + 1) ++
          s.mem.read (0x1DA00 + 2 * (16 * s.arg0.toNat + s.arg1.toNat)),
        status := 0x0000 }) ∧
    ((16 ≤ s.arg0.toNat ∨ 16 ≤ s.arg1.toNat) → exec .palGet s = .next { s with status := 0x0021 })) ∧
  (∀ s t, s.arg0.toNat < 16 → s.arg1.toNat < 16 → exec .palSet s = .next t →
    exec .palGet t = .next { t with res0 := s.arg2, status := 0x0000 })

/-! ### The framebuffer primitives (43_framebuffer.md) -/

/-- R160: PSET writes the two bytes of an on-screen pixel, low byte first, and nothing for any other. -/
def Obligations.PsetWritesOneClippedPixel : Prop :=
  encode .pset = 0x0030 ∧
  ∀ s, ∃ t, exec .pset s = .next t ∧
    (let x := s.arg0.toInt
     let y := s.arg1.toInt
     let a := 0x15A00 + 2 * (x.toNat + 128 * y.toNat)
     (0 ≤ x ∧ x < 128 ∧ 0 ≤ y ∧ y < 128 →
       t.mem.read a = s.arg2.extractLsb' 0 8 ∧ t.mem.read (a + 1) = s.arg2.extractLsb' 8 8 ∧
       SameMemOutside (fun b => b = a ∨ b = a + 1) s t) ∧
     (¬(0 ≤ x ∧ x < 128 ∧ 0 ≤ y ∧ y < 128) → t.mem = s.mem)) ∧
    SameOperands s t ∧ SameResults s t ∧ t.status = 0x0000

/-- R161: FILL gives every pixel the color and changes only the framebuffer zone, 0x15A00 to 0x1D9FF. -/
def Obligations.FillPaintsEveryPixel : Prop :=
  encode .fill = 0x0031 ∧
  ∀ s, ∃ t, exec .fill s = .next t ∧ (∀ x y, x < 128 → y < 128 → pixel t.mem x y = s.arg0) ∧
    SameMemOutside (fun a => 0x15A00 ≤ a ∧ a ≤ 0x1D9FF) s t ∧
    SameOperands s t ∧ SameResults s t ∧ t.status = 0x0000

/-- R162: RECT gives the color to the on-screen pixels of columns `x` to `x+w-1` and rows `y` to `y+h-1`, in `int`,
and to no other; over the whole screen it is FILL. -/
def Obligations.RectPaintsItsPixels : Prop :=
  encode .rect = 0x0032 ∧
  ∀ s, ∃ t, exec .rect s = .next t ∧
    (let x := s.arg0.toInt
     let y := s.arg1.toInt
     let w := s.arg2.toInt
     let h := s.arg3.toInt
     (∀ px py : Nat, px < 128 → py < 128 → pixel t.mem px py =
       if x ≤ px ∧ (px : Int) ≤ x + w - 1 ∧ y ≤ py ∧ (py : Int) ≤ y + h - 1 then s.arg4
       else pixel s.mem px py) ∧
     (x = 0 → y = 0 → w = 128 → h = 128 → ∀ a, t.mem.read a = (paintFill s.arg4 s.mem).read a)) ∧
    SameMemOutside (inZone .framebuffer) s t ∧ SameOperands s t ∧ SameResults s t ∧ t.status = 0x0000

/-- R161, R162: on a canonical memory FILL and RECT leave exactly the memory their pseudocode leaves, which plots
every pixel one by one and drops those off the screen. -/
def Obligations.FillAndRectEqualTheirPlots : Prop :=
  ∀ m : Memory, m.wf = true → ∀ c : Word,
    paintFill c m = fillByPlot c m ∧ ∀ x y w h : Int, paintRect x y w h c m = rectByPlot x y w h c m

/-- R163: LINE gives the color to the on-screen pixels it visits and to no other. -/
def Obligations.LinePaintsVisitedPixels : Prop :=
  encode .line = 0x0033 ∧
  ∀ s, ∃ t, exec .line s = .next t ∧
    (∀ px py : Nat, px < 128 → py < 128 → pixel t.mem px py =
      if ((px : Int), (py : Int)) ∈ linePixels s.arg0.toInt s.arg1.toInt s.arg2.toInt s.arg3.toInt then s.arg4
      else pixel s.mem px py) ∧
    SameMemOutside (inZone .framebuffer) s t ∧ SameOperands s t ∧ SameResults s t ∧ t.status = 0x0000

/-- R163: the three cases of LINE: the pixels between the ends of a horizontal and of a vertical line, both
included, and otherwise those of the loop as the rule writes it, which leaves at `(x1, y1)`. -/
def Obligations.LineFollowsBresenhamLoop : Prop :=
  (∀ x0 x1 y p q : Int, (p, q) ∈ linePixels x0 y x1 y ↔ q = y ∧ min x0 x1 ≤ p ∧ p ≤ max x0 x1) ∧
  (∀ x y0 y1 p q : Int, y0 ≠ y1 →
    ((p, q) ∈ linePixels x y0 x y1 ↔ p = x ∧ min y0 y1 ≤ q ∧ q ≤ max y0 y1)) ∧
  (∀ x0 y0 x1 y1 : Int, y0 ≠ y1 → x0 ≠ x1 →
    LineLoop x1 y1 |x1 - x0| (-|y1 - y0|) (if x0 < x1 then 1 else -1) (if y0 < y1 then 1 else -1)
      x0 y0 (|x1 - x0| + -|y1 - y0|) (linePixels x0 y0 x1 y1))

/-- R164: LINE visits `max(|x1-x0|, |y1-y0|) + 1` distinct pixels, one king's move apart and never going back: in
the general case from `(x0, y0)` to `(x1, y1)`, and on a horizontal or vertical line from its lower end to its
upper end, as the ranges of R163 run. The spec checked this on small endpoints only; here it is for all. -/
def Obligations.LineVisitsDistinctKingMoves : Prop :=
  ∀ x0 y0 x1 y1 : Int,
    (linePixels x0 y0 x1 y1).length = max (x1 - x0).natAbs (y1 - y0).natAbs + 1 ∧
    (linePixels x0 y0 x1 y1).Nodup ∧
    (x0 ≠ x1 → y0 ≠ y1 → VisitsFromTo x0 y0 x1 y1 (linePixels x0 y0 x1 y1)) ∧
    (y0 = y1 → VisitsFromTo (min x0 x1) y0 (max x0 x1) y0 (linePixels x0 y0 x1 y1)) ∧
    (x0 = x1 → y0 ≠ y1 → VisitsFromTo x0 (min y0 y1) x0 (max y0 y1) (linePixels x0 y0 x1 y1))

/-- R165: FBGET reads the pixel of a linear index, `x + 128*y` for pixel `(x, y)`. -/
def Obligations.FbGetReadsLinearIndex : Prop :=
  encode .fbGet = 0x0034 ∧
  ∀ s, (s.arg0.toNat < 16384 →
      exec .fbGet s = .next { s with
        res0 := s.mem.read (0x15A00 + 2 * s.arg0.toNat + 1) ++ s.mem.read (0x15A00 + 2 * s.arg0.toNat),
        status := 0x0000 } ∧
      exec .fbGet s = .next { s with
        res0 := pixel s.mem (s.arg0.toNat % 128) (s.arg0.toNat / 128), status := 0x0000 }) ∧
    (16384 ≤ s.arg0.toNat → exec .fbGet s = .next { s with status := 0x0021 })

/-- R57, R160, R165: FBGET of the index of an on-screen pixel reads what PSET just wrote there. -/
def Obligations.FbGetAfterPset : Prop :=
  ∀ s t (x y : Nat) (k : Word), x < 128 → y < 128 → s.arg0.toInt = (x : Int) → s.arg1.toInt = (y : Int) →
    exec .pset s = .next t → k.toNat = x + 128 * y →
    exec .fbGet { t with arg0 := k } = .next { t with arg0 := k, res0 := s.arg2, status := 0x0000 }

/-! ### The rasterizer (44_rasterizer.md) -/

/-- R190 to R198, R201: after RASTER every framebuffer pixel has the color of the last slot, in ascending order,
whose enabled descriptor paints it opaquely, and its color from before where there is none; no other byte
changes. -/
def Obligations.RasterCompositesSlots : Prop :=
  encode .raster = 0x0040 ∧
  ∀ s, ∃ t, exec .raster s = .next t ∧
    (∀ px py : Nat, px < 128 → py < 128 →
      pixel t.mem px py = compositePixel s.mem (List.range 128) px py (pixel s.mem px py)) ∧
    SameMemOutside (inZone .framebuffer) s t ∧ SameOperands s t ∧ SameResults s t ∧ t.status = 0x0000

/-- R190, R67: RASTER leaves exactly the memory its pseudocode leaves, though that reads `MEM` as it goes. -/
def Obligations.RasterEqualsItsPseudocode : Prop := ∀ m : Memory, paintRaster m = rasterByPlot m

/-- R193: RASTER with every descriptor disabled changes nothing but STATUS, whatever the other fields hold. -/
def Obligations.RasterSkipsDisabledSlots : Prop :=
  ∀ s, (∀ n, n < 128 → (descRead s.mem n).en = false) → exec .raster s = .next { s with status := 0x0000 }

/-- R200: RASTER with no opaque palette entry changes nothing but STATUS. -/
def Obligations.RasterPaintsNoTransparentColor : Prop :=
  ∀ s, (∀ p e, p < 16 → e < 16 → (palColor s.mem p e).getLsbD 15 = false) →
    exec .raster s = .next { s with status := 0x0000 }

/-- R199: two memories that differ, for RASTER, only in the FLIPX bit of slot `n`, no other slot enabled, the
square wholly on-screen and over one color: the square of one is the horizontal mirror of the other's. -/
def Obligations.RasterFlipXMirrors : Prop :=
  ∀ (s s' t t' : State) (n : Nat) (bg : Word), n < 128 →
    (∀ k, k < 128 → k ≠ n → (descRead s.mem k).en = false ∧ (descRead s'.mem k).en = false) →
    descRead s'.mem n = { descRead s.mem n with flipX := !(descRead s.mem n).flipX } →
    (∀ a, 0x1DA00 ≤ a → a < 0x1FC00 → s'.mem.read a = s.mem.read a) →
    (let d := descRead s.mem n
     0 ≤ d.x ∧ d.x + 8 * d.tiles ≤ 128 ∧ 0 ≤ d.y ∧ d.y + 8 * d.tiles ≤ 128) →
    (∀ x y, x < 128 → y < 128 → pixel s.mem x y = bg ∧ pixel s'.mem x y = bg) →
    exec .raster s = .next t → exec .raster s' = .next t' →
    let d := descRead s.mem n
    ∀ u v, u < 8 * d.tiles → v < 8 * d.tiles →
      pixel t'.mem (d.x.toNat + u) (d.y.toNat + v) =
        pixel t.mem (d.x.toNat + (8 * d.tiles - 1 - u)) (d.y.toNat + v)

/-! ### The register file and the host port (10_state.md) -/

/-- R23, R30: a host read answers the register of its number (WIDTH and HEIGHT 0x0080, reserved numbers 0x0000) and
changes nothing of the block. The answer stands in `response`, the queue in `inputs`, and STATUS is masked (log
entries 2, 1 and 5). -/
def Obligations.HostReadAnswersRegister : Prop :=
  ∀ (s : State) (n : BitVec 4) (rest : List Input), s.inputs = .read n :: rest →
    step s = .next { s with
      inputs := rest
      response := some ([s.cmd, s.arg0, s.arg1, s.arg2, s.arg3, s.arg4, s.res0, s.res1, s.res2,
        s.status &&& 0x00F1, 0x0080, 0x0080, 0x0000, 0x0000, 0x0000, 0x0000].getD n.toNat 0x0000) }

/-- R25: a host write to an ARG register stores any value there and nothing else; no command writes one, and no step
but such a write (or the reset input) changes one. That a write leaves the queue `inputs` and no answer in
`response` is the model's form of a transaction (log entries 1 and 2). -/
def Obligations.ArgRegistersKeepHostValue : Prop :=
  (∀ (s : State) (v : Word) (rest : List Input),
    (s.inputs = .write 0x1 v :: rest → step s = .next { s with arg0 := v, inputs := rest, response := none }) ∧
    (s.inputs = .write 0x2 v :: rest → step s = .next { s with arg1 := v, inputs := rest, response := none }) ∧
    (s.inputs = .write 0x3 v :: rest → step s = .next { s with arg2 := v, inputs := rest, response := none }) ∧
    (s.inputs = .write 0x4 v :: rest → step s = .next { s with arg3 := v, inputs := rest, response := none }) ∧
    (s.inputs = .write 0x5 v :: rest → step s = .next { s with arg4 := v, inputs := rest, response := none })) ∧
  (∀ i s t, exec i s = .next t → SameOperands s t) ∧
  (∀ s t : State, step s = .next t → (∀ n v rest, s.inputs = .write n v :: rest → n = 0x0 ∨ 6 ≤ n.toNat) →
    (∀ rest, s.inputs ≠ .reset :: rest) → t.args = s.args)

/-- R31: a host write to RES0 to RES2, STATUS, WIDTH, HEIGHT or a reserved number changes nothing of the block; the
transaction completes, which in the model takes it off the queue `inputs` and leaves no answer in `response` (log
entries 1 and 2). -/
def Obligations.WritesToReadOnlyIgnored : Prop :=
  ∀ (s : State) (n : BitVec 4) (v : Word) (rest : List Input), 6 ≤ n.toNat → s.inputs = .write n v :: rest →
    step s = .next { s with inputs := rest, response := none }

/-- R26: no step but the run of a command (or the reset input) touches a result register, only RD8, RD16, ENCODE,
DECODE, SPR_GET, PAL_GET and FBGET write one, only DECODE writes RES1 and RES2, and none that raises does. -/
def Obligations.OnlyProducersWriteResults : Prop :=
  (∀ i s t, exec i s = .next t →
    (i ∉ ([.rd8, .rd16, .encode, .decode, .sprGet, .palGet, .fbGet] : List Instr) → SameResults s t) ∧
    (i ≠ .decode → t.res1 = s.res1 ∧ t.res2 = s.res2) ∧ (t.status ≠ 0x0000 → SameResults s t)) ∧
  (∀ s t : State, step s = .next t → (∀ w rest, s.inputs ≠ .write 0x0 w :: rest) →
    (∀ rest, s.inputs ≠ .reset :: rest) → SameResults s t)

/-- R35: what a command does depends only on the ARG registers and `MEM`: from two states that agree on those, the
memory and STATUS after it agree, and each result register either gets the same value or keeps its own. -/
def Obligations.CommandReadsOnlyArgsAndMemory : Prop :=
  ∀ (i : Instr) (s s' : State), s.args = s'.args → s.mem = s'.mem →
    ∃ t t', exec i s = .next t ∧ exec i s' = .next t' ∧ t.mem = t'.mem ∧ t.status = t'.status ∧
      (t.res0 = t'.res0 ∨ (t.res0 = s.res0 ∧ t'.res0 = s'.res0)) ∧
      (t.res1 = t'.res1 ∨ (t.res1 = s.res1 ∧ t'.res1 = s'.res1)) ∧
      (t.res2 = t'.res2 ∨ (t.res2 = s.res2 ∧ t'.res2 = s'.res2))

/-! ### Zones (20_memory.md) -/

/-- R55: the addresses and sizes of the zones, and every byte of `MEM` in exactly one of them. -/
def Obligations.ZonesPartitionMemory : Prop :=
  (∀ a, inZone .descriptors a ↔ 0x1FC00 ≤ a ∧ a ≤ 0x1FFFF) ∧ (∀ a, inZone .bitmaps a ↔ 0x1DC00 ≤ a ∧ a ≤ 0x1FBFF) ∧
  (∀ a, inZone .palettes a ↔ 0x1DA00 ≤ a ∧ a ≤ 0x1DBFF) ∧
  (∀ a, inZone .framebuffer a ↔ 0x15A00 ≤ a ∧ a ≤ 0x1D9FF) ∧ (∀ a, inZone .general a ↔ a ≤ 0x159FF) ∧
  (∀ a, a < 131072 ↔ ∃ z, inZone z a) ∧ (∀ z z' a, inZone z a → inZone z' a → z = z') ∧
  zoneBytes .descriptors + zoneBytes .bitmaps + zoneBytes .palettes + zoneBytes .framebuffer = 0xA600

/-- R62: no painting command writes outside the framebuffer zone. -/
def Obligations.PaintersStayInFramebuffer : Prop :=
  ∀ i ∈ ([.pset, .fill, .rect, .line, .raster] : List Instr), ∀ s,
    ∃ t, exec i s = .next t ∧ SameMemOutside (inZone .framebuffer) s t

/-- R56: no zone has a byte of the general region; only WR8, WR16 and CLEAR write one; and the commands other than
RD8, WR8, RD16, WR16 and CLEAR read none: what they leave elsewhere is the same whatever it holds. -/
def Obligations.GeneralRegionNeedsMemoryCommand : Prop :=
  (∀ a, inZone .general a ↔ a ≤ 0x159FF) ∧ (∀ z a, z ≠ .general → inZone z a → 0x159FF < a) ∧
  (∀ i s t, i ∉ ([.wr8, .wr16, .clear] : List Instr) → exec i s = .next t →
    ∀ a, inZone .general a → t.mem.read a = s.mem.read a) ∧
  (∀ i s s' t t', i ∉ ([.rd8, .wr8, .rd16, .wr16, .clear] : List Instr) → s'.args = s.args → SameResults s s' →
    (∀ a, ¬ inZone .general a → s'.mem.read a = s.mem.read a) → exec i s = .next t → exec i s' = .next t' →
    SameResults t t' ∧ t'.status = t.status ∧ ∀ a, ¬ inZone .general a → t'.mem.read a = t.mem.read a)

/-! ### Errors (60_exceptions.md) -/

/-- R222: a command that raises leaves CMD holding its word, STATUS `0x0001 | (E << 4)`, and nothing else of the
block changed. The write of CMD leaves the queue `inputs` and no answer in `response` (log entries 1 and 2). -/
def Obligations.ErrorsArePrecise : Prop :=
  ∀ (s t : State) (w : Word) (rest : List Input), s.inputs = .write 0x0 w :: rest → step s = .next t →
    t.status ≠ 0x0000 →
    (∃ e ∈ ([1, 2, 3] : List Word), t.status = 0x0001 ||| (e <<< 4)) ∧
    t = { s with cmd := w, status := t.status, inputs := rest, response := none }

/-- R226, R88, R237: no error diverts the block, every command ends, and an idle block keeps its state, so a run
never stops. That an error is a next state and not a fault is log entry 7; that a step with nothing pending exists
is log entry 3. -/
def Obligations.MachineNeverStops : Prop := ∀ s, neverStops s

/-- R237: with nothing from the host the block is idle and keeps all state (log entry 3: the model's reading). -/
def Obligations.IdleKeepsState : Prop := ∀ s : State, s.inputs = [] → step s = .next s

/-! ### Reset and the invariant (70_reset_and_hazards.md; 10_state.md R27) -/

/-- R250: the reset input zeroes every byte and every register; no command runs. -/
def Obligations.ResetInputZeroesAll : Prop :=
  ∀ (s : State) (rest : List Input), s.inputs = .reset :: rest →
    ∃ t, step s = .next t ∧ (∀ a, t.mem.read a = 0x00) ∧ t.cmd = 0x0000 ∧ t.arg0 = 0x0000 ∧ t.arg1 = 0x0000 ∧
      t.arg2 = 0x0000 ∧ t.arg3 = 0x0000 ∧ t.arg4 = 0x0000 ∧ t.res0 = 0x0000 ∧ t.res1 = 0x0000 ∧
      t.res2 = 0x0000 ∧ t.status = 0x0000

/-- R252: the value of every piece of state after reset. -/
def Obligations.ResetStateValues : Prop :=
  (∀ a, State.reset.mem.read a = 0x00) ∧ (∀ p e, palColor State.reset.mem p e = 0x0000) ∧
  (∀ b x y, bmpGet State.reset.mem b x y = 0) ∧
  (∀ n, descRead State.reset.mem n = ⟨0, 0, 0, 0, false, false, false, 0⟩) ∧
  (∀ x y, pixel State.reset.mem x y = 0x0000) ∧
  (∀ n : BitVec 4, State.reset.readReg (regOfNumber n) = if n = 0xA ∨ n = 0xB then 0x0080 else 0x0000)

/-- R251: CLEAR differs from the reset input only in the registers: CMD holds 0x0001, ARG and RES keep theirs. The
write of CMD leaves the queue `inputs` and no answer in `response` (log entries 1 and 2). -/
def Obligations.ClearIsResetOfMemoryOnly : Prop :=
  ∀ (s : State) (rest : List Input), s.inputs = .write 0x0 0x0001 :: rest →
    ∃ t, step s = .next t ∧ t = { s with
      cmd := 0x0001, mem := State.reset.mem, status := 0x0000, inputs := rest, response := none }

/-- R27: the state after reset has a canonical memory and a legal STATUS. -/
def Obligations.ResetHasCanonicalState : Prop := State.reset.Inv

/-- R27, R50: every step keeps the memory canonical, so that no byte outside `MEM` ever exists, and STATUS at one
of its legal values. -/
def Obligations.StepKeepsCanonicalState : Prop := ∀ s t : State, s.Inv → step s = .next t → t.Inv

/-! ### The assembler (30_encoding.md R87, R89) -/

/-- R87: the assembled transactions of every well-formed line, run one by one, end in its command with the line's
operands in the ARG registers it lists and the others as they were. The lines of WR16 (an address over two
registers) and of RECT (five operands) are also written out in full. That a line writes every ARG register it lists
is log entry 9; the queue `inputs` and the empty `response` are log entries 1 and 2. -/
def Obligations.AssembledLinesRunTheirCommand : Prop :=
  (∀ (l : Line) (s : State) (rest : List Input), l.wellFormed = true →
    core.run ((operandWords l.instr.operands l.ops).length + 1) { s with inputs := assembleLine l ++ rest } =
      exec l.instr { s.withOperands (operandWords l.instr.operands l.ops) with
        cmd := encode l.instr, inputs := rest, response := none }) ∧
  (∀ (s : State) (rest : List Input) (a v : Nat), a < 131072 → v < 65536 →
    core.run 4 { s with inputs := assembleLine ⟨.wr16, [a, v]⟩ ++ rest } =
      exec .wr16 { s with
        cmd := 0x0005, arg0 := BitVec.ofNat 16 a, arg1 := BitVec.ofNat 16 (a / 65536), arg2 := BitVec.ofNat 16 v,
        inputs := rest, response := none }) ∧
  (∀ (s : State) (rest : List Input) (x y w h c : Int),
    core.run 6 { s with inputs := assembleLine ⟨.rect, [x, y, w, h, c]⟩ ++ rest } =
      exec .rect { s with
        cmd := 0x0032, arg0 := BitVec.ofInt 16 x, arg1 := BitVec.ofInt 16 y, arg2 := BitVec.ofInt 16 w,
        arg3 := BitVec.ofInt 16 h, arg4 := BitVec.ofInt 16 c, inputs := rest, response := none })

/-- R89, R61: the expansion of `DESC n, x, y, idx, pal, flags` writes exactly those fields of descriptor `n`, and no
byte outside it. Its operand ranges are log entry 9; its place in the queue `inputs` is log entry 1. -/
def Obligations.DescPseudoWritesDescriptor : Prop :=
  ∀ (s : State) (rest : List Input) (n idx pal flags : Nat) (x y : Int), n < 128 → idx < 256 → pal < 16 →
    flags < 32 → -32768 ≤ x → x < 32768 → -32768 ≤ y → y < 32768 →
    ∃ t, core.run 16 { s with inputs := assemblePseudo (.desc n x y idx pal flags) ++ rest } = .next t ∧
      descRead t.mem n = ⟨x, y, idx, pal, flags.testBit 0, flags.testBit 1, flags.testBit 2,
        BitVec.ofNat 2 (flags / 8)⟩ ∧
      SameMemOutside (fun a => 0x1FC00 + 8 * n ≤ a ∧ a < 0x1FC00 + 8 * n + 8) s t ∧
      t.inputs = rest ∧ t.status = 0x0000
end

