-- ==== Sys2Proof/Laws/Memory.lean ====
section
/-! SUPPORT. What reads and writes of `MEM` can do (20_memory.md R51): a read after a write, the canonical form kept,
and equal reads making equal canonical memories. -/

namespace Sys2Proof.Machine

/-! ### Reading lists of cells -/

@[simp] theorem Memory.read_nil (a : Nat) : Memory.read [] a = 0x00 := rfl

@[simp] theorem Memory.read_cons (b : Nat) (w : Byte) (rest : Memory) (a : Nat) :
    Memory.read ((b, w) :: rest) a = if b = a then w else Memory.read rest a := rfl

theorem Memory.read_append_of_absent (m n : Memory) (a : Nat) (h : ∀ c ∈ m, c.1 ≠ a) :
    Memory.read (m ++ n) a = Memory.read n a := by
  induction m with
  | nil => rfl
  | cons c m ih =>
    obtain ⟨b, w⟩ := c
    have hb : b ≠ a := h (b, w) (by simp)
    simpa [hb] using ih fun c hc => h c (by simp [hc])

theorem Memory.read_append_of_zero (m n : Memory) (a : Nat) (h : Memory.read n a = 0x00) :
    Memory.read (m ++ n) a = Memory.read m a := by
  induction m with
  | nil => simpa using h
  | cons c m ih => obtain ⟨b, w⟩ := c; simp [ih]

/-- Keeping the cells whose address satisfies `q` keeps the bytes at those addresses and no other. -/
theorem Memory.read_filter (m : Memory) (q : Nat → Bool) (a : Nat) :
    Memory.read (m.filter fun c => q c.1) a = if q a then Memory.read m a else 0x00 := by
  induction m with
  | nil => simp
  | cons c m ih =>
    obtain ⟨b, w⟩ := c
    by_cases hb : b = a
    · subst hb; by_cases hq : q b <;> simp [hq, ih]
    · by_cases hq : q b <;> simp [hq, ih, hb]

theorem cellsFrom_range (a : Nat) (vs : List Byte) (c : Host.Cell) (h : c ∈ cellsFrom a vs) :
    a ≤ c.1 ∧ c.1 < a + vs.length := by
  induction vs generalizing a with
  | nil => simp [cellsFrom] at h
  | cons v vs ih =>
    rw [cellsFrom] at h
    split at h
    · have := ih _ h; simp only [List.length_cons]; omega
    · rcases List.mem_cons.1 h with rfl | h
      · simp
      · have := ih _ h; simp only [List.length_cons]; omega

theorem read_cellsFrom (a : Nat) (vs : List Byte) (b : Nat) :
    Memory.read (cellsFrom a vs) b =
      if a ≤ b ∧ b < a + vs.length then vs.getD (b - a) 0x00 else 0x00 := by
  induction vs generalizing a with
  | nil => simp [cellsFrom]
  | cons v vs ih =>
    have key : Memory.read (cellsFrom a (v :: vs)) b =
        if a = b then v else Memory.read (cellsFrom (a + 1) vs) b := by
      rw [cellsFrom]
      split
      · split
        · subst_vars; rw [ih]; simp
        · rfl
      · rfl
    rw [key]
    by_cases hab : a = b
    · subst hab; simp
    · rw [if_neg hab, ih]
      by_cases hin : a + 1 ≤ b ∧ b < a + 1 + vs.length
      · obtain ⟨k, rfl⟩ : ∃ k, b = a + 1 + k := ⟨b - (a + 1), by omega⟩
        have e1 : a + 1 + k - (a + 1) = k := by omega
        have e2 : a + 1 + k - a = k + 1 := by omega
        rw [if_pos hin, if_pos (by simp only [List.length_cons]; omega), e1, e2, List.getD_cons_succ]
      · rw [if_neg hin, if_neg (by simp only [List.length_cons]; omega)]

/-! ### Writes -/

/-- A splice of bytes: inside the run its bytes, elsewhere what was there. -/
theorem Memory.read_writeBytes (m : Memory) (a : Nat) (vs : List Byte) (b : Nat) :
    (m.writeBytes a vs).read b =
      if a ≤ b ∧ b < a + vs.length then vs.getD (b - a) 0x00 else m.read b := by
  unfold Memory.writeBytes
  split
  · subst_vars; rw [if_neg (by simp only [List.length_nil]; omega)]
  · have below := Memory.read_filter m (fun x => decide (x < a)) b
    have above := Memory.read_filter m (fun x => decide (a + vs.length ≤ x)) b
    have run := read_cellsFrom a vs b
    dsimp only at below above ⊢
    by_cases h1 : b < a
    · rw [Memory.read_append_of_zero, below, if_pos (by simpa using h1), if_neg (by omega)]
      rw [Memory.read_append_of_zero, run, if_neg (by omega)]
      rw [above, if_neg (by simp only [decide_eq_true_eq]; omega)]
    · rw [Memory.read_append_of_absent _ _ _ (by
        intro c hc; have := (List.mem_filter.1 hc).2; simp only [decide_eq_true_eq] at this; omega)]
      by_cases h2 : b < a + vs.length
      · rw [Memory.read_append_of_zero, run]
        · simp only [show a ≤ b by omega, h2, and_self, if_true]
        · rw [above, if_neg (by simp only [decide_eq_true_eq]; omega)]
      · rw [Memory.read_append_of_absent, above, if_pos (by simp only [decide_eq_true_eq]; omega),
          if_neg (by omega)]
        intro c hc; have := cellsFrom_range _ _ _ hc; omega

theorem Memory.read_write (m : Memory) (a : Nat) (v : Byte) (b : Nat) :
    (m.write a v).read b = if b = a then v else m.read b := by
  rw [Memory.write, Memory.read_writeBytes]
  by_cases h : b = a
  · subst h; simp
  · rw [if_neg (by simp only [List.length_singleton]; omega), if_neg h]

@[simp] theorem littleEndian_length (ws : List Word) : (littleEndian ws).length = 2 * ws.length := by
  induction ws with
  | nil => rfl
  | cons w ws ih => simp only [littleEndian, List.flatMap_cons, List.length_append, List.length_cons,
      List.length_nil] at *; omega

theorem littleEndian_cons (w : Word) (ws : List Word) :
    littleEndian (w :: ws) = loByte w :: hiByte w :: littleEndian ws := rfl

theorem littleEndian_getD_even (ws : List Word) (k : Nat) :
    (littleEndian ws).getD (2 * k) 0x00 = loByte (ws.getD k 0x0000) := by
  induction ws generalizing k with
  | nil => simp [littleEndian, loByte]
  | cons w ws ih =>
    cases k with
    | zero => rfl
    | succ k =>
      rw [littleEndian_cons, show 2 * (k + 1) = 2 * k + 1 + 1 by omega, List.getD_cons_succ,
        List.getD_cons_succ, List.getD_cons_succ, ih]

theorem littleEndian_getD_odd (ws : List Word) (k : Nat) :
    (littleEndian ws).getD (2 * k + 1) 0x00 = hiByte (ws.getD k 0x0000) := by
  induction ws generalizing k with
  | nil => simp [littleEndian, hiByte]
  | cons w ws ih =>
    cases k with
    | zero => rfl
    | succ k =>
      rw [littleEndian_cons, show 2 * (k + 1) + 1 = 2 * k + 1 + 1 + 1 by omega, List.getD_cons_succ,
        List.getD_cons_succ, List.getD_cons_succ, ih]

/-- A splice of 16-bit values leaves every byte outside it. -/
theorem Memory.read_writeWords_outside (m : Memory) (a : Nat) (ws : List Word) (b : Nat)
    (h : b < a ∨ a + 2 * ws.length ≤ b) : (m.writeWords a ws).read b = m.read b := by
  rw [Memory.writeWords, Memory.read_writeBytes, littleEndian_length, if_neg (by omega)]

theorem Memory.read_writeWords_lo (m : Memory) (a : Nat) (ws : List Word) (k : Nat) (h : k < ws.length) :
    (m.writeWords a ws).read (a + 2 * k) = loByte (ws.getD k 0x0000) := by
  rw [Memory.writeWords, Memory.read_writeBytes, littleEndian_length, if_pos (by omega),
    show a + 2 * k - a = 2 * k by omega, littleEndian_getD_even]

theorem Memory.read_writeWords_hi (m : Memory) (a : Nat) (ws : List Word) (k : Nat) (h : k < ws.length) :
    (m.writeWords a ws).read (a + 2 * k + 1) = hiByte (ws.getD k 0x0000) := by
  rw [Memory.writeWords, Memory.read_writeBytes, littleEndian_length, if_pos (by omega),
    show a + 2 * k + 1 - a = 2 * k + 1 by omega, littleEndian_getD_odd]

/-- The bits of two bytes side by side. -/
theorem getLsbD_bytes (h l : Byte) (i : Nat) :
    (h ++ l : Word).getLsbD i = if i < 8 then l.getLsbD i else h.getLsbD (i - 8) := by
  rw [show (h ++ l : Word).getLsbD i = (h ++ l : BitVec (8 + 8)).getLsbD i from rfl, BitVec.getLsbD_append]

@[simp] theorem hiByte_append_loByte (v : Word) : (hiByte v ++ loByte v : Word) = v := by
  apply BitVec.eq_of_getLsbD_eq
  intro i hi
  rw [getLsbD_bytes]
  simp only [hiByte, loByte, BitVec.getLsbD_extractLsb']
  split
  · simp [*]
  · rw [show 8 + (i - 8) = i by omega]; simp [show i - 8 < 8 by omega]

@[simp] theorem loByte_append (h l : Byte) : loByte (h ++ l) = l := by
  apply BitVec.eq_of_getLsbD_eq
  intro i hi
  rw [loByte, BitVec.getLsbD_extractLsb', getLsbD_bytes]
  simp [hi]

@[simp] theorem hiByte_append (h l : Byte) : hiByte (h ++ l) = h := by
  apply BitVec.eq_of_getLsbD_eq
  intro i hi
  rw [hiByte, BitVec.getLsbD_extractLsb', getLsbD_bytes]
  simp [hi]

/-- The 16-bit value `k` of a splice reads back (20_memory.md R51). -/
theorem Memory.read16_writeWords (m : Memory) (a : Nat) (ws : List Word) (k : Nat) (h : k < ws.length) :
    (m.writeWords a ws).read16 (a + 2 * k) = ws.getD k 0x0000 := by
  rw [Memory.read16, Memory.read_writeWords_lo _ _ _ _ h, Memory.read_writeWords_hi _ _ _ _ h,
    hiByte_append_loByte]

/-- A 16-bit value wholly outside a splice is unchanged. -/
theorem Memory.read16_writeWords_outside (m : Memory) (a : Nat) (ws : List Word) (b : Nat)
    (h : b + 2 ≤ a ∨ a + 2 * ws.length ≤ b) : (m.writeWords a ws).read16 b = m.read16 b := by
  rw [Memory.read16, Memory.read16, Memory.read_writeWords_outside _ _ _ _ (by omega),
    Memory.read_writeWords_outside _ _ _ _ (by omega)]

/-- What `MemWrite(a, 2, v)` does to every byte (20_memory.md R51). -/
theorem Memory.read_write16 (m : Memory) (a : Nat) (v : Word) (b : Nat) :
    (m.write16 a v).read b = if b = a then loByte v else if b = a + 1 then hiByte v else m.read b := by
  rw [Memory.write16]
  by_cases h0 : b = a
  · subst h0; simpa using Memory.read_writeWords_lo m b [v] 0 (by simp)
  · by_cases h1 : b = a + 1
    · subst h1; simpa using Memory.read_writeWords_hi m a [v] 0 (by simp)
    · rw [if_neg h0, if_neg h1]
      exact Memory.read_writeWords_outside _ _ _ _ (by simp only [List.length_singleton]; omega)

@[simp] theorem Memory.read16_write16 (m : Memory) (a : Nat) (v : Word) : (m.write16 a v).read16 a = v := by
  simp [Memory.read16, Memory.read_write16]

theorem Memory.read16_write16_outside (m : Memory) (a : Nat) (v : Word) (b : Nat) (h : b + 2 ≤ a ∨ a + 2 ≤ b) :
    (m.write16 a v).read16 b = m.read16 b :=
  Memory.read16_writeWords_outside m a [v] b (by simpa using h)

/-- A memory operation that leaves both bytes of a 16-bit value leaves the value. -/
theorem Memory.read16_congr {m n : Memory} {a : Nat} (h0 : m.read a = n.read a)
    (h1 : m.read (a + 1) = n.read (a + 1)) : m.read16 a = n.read16 a := by
  rw [Memory.read16, Memory.read16, h0, h1]

/-! ### The canonical form -/

theorem Memory.wfFrom_cons {lo b : Nat} {w : Byte} {m : Memory} :
    Memory.wfFrom lo ((b, w) :: m) = true ↔
      lo ≤ b ∧ b < Config.memSize ∧ w ≠ 0x00 ∧ Memory.wfFrom (b + 1) m = true := by
  simp [Memory.wfFrom]

theorem Memory.wfFrom_mono {lo lo' : Nat} {m : Memory} (h : Memory.wfFrom lo' m = true) (hl : lo ≤ lo') :
    Memory.wfFrom lo m = true := by
  cases m with
  | nil => rfl
  | cons c m => obtain ⟨b, w⟩ := c; rw [Memory.wfFrom_cons] at *; exact ⟨by omega, h.2⟩

theorem Memory.wfFrom_filter {lo : Nat} {m : Memory} (p : Host.Cell → Bool) (h : Memory.wfFrom lo m = true) :
    Memory.wfFrom lo (m.filter p) = true := by
  induction m generalizing lo with
  | nil => rfl
  | cons c m ih =>
    obtain ⟨b, w⟩ := c
    rw [Memory.wfFrom_cons] at h
    have hm := ih h.2.2.2
    by_cases hp : p (b, w)
    · rw [List.filter_cons_of_pos hp, Memory.wfFrom_cons]; exact ⟨h.1, h.2.1, h.2.2.1, hm⟩
    · rw [List.filter_cons_of_neg hp]; exact Memory.wfFrom_mono hm (by omega)

theorem Memory.wfFrom_append {lo k : Nat} {m n : Memory} (hm : Memory.wfFrom lo m = true)
    (hk : ∀ c ∈ m, c.1 < k) (hn : Memory.wfFrom k n = true) (hl : lo ≤ k) :
    Memory.wfFrom lo (m ++ n) = true := by
  induction m generalizing lo with
  | nil => exact Memory.wfFrom_mono hn hl
  | cons c m ih =>
    obtain ⟨b, w⟩ := c
    rw [Memory.wfFrom_cons] at hm
    rw [List.cons_append, Memory.wfFrom_cons]
    have hb : b < k := hk (b, w) (by simp)
    exact ⟨hm.1, hm.2.1, hm.2.2.1, ih hm.2.2.2 (fun c hc => hk c (by simp [hc])) (by omega)⟩

theorem Memory.wfFrom_filter_above {lo k : Nat} {m : Memory} (h : Memory.wfFrom lo m = true) :
    Memory.wfFrom k (m.filter fun c => k ≤ c.1) = true := by
  induction m generalizing lo with
  | nil => rfl
  | cons c m ih =>
    obtain ⟨b, w⟩ := c
    rw [Memory.wfFrom_cons] at h
    by_cases hp : k ≤ b
    · rw [List.filter_cons_of_pos (by simpa using hp), Memory.wfFrom_cons]
      exact ⟨hp, h.2.1, h.2.2.1, Memory.wfFrom_filter _ h.2.2.2⟩
    · rw [List.filter_cons_of_neg (by simpa using hp)]; exact ih h.2.2.2

theorem wfFrom_cellsFrom (a : Nat) (vs : List Byte) (h : a + vs.length ≤ Config.memSize) :
    Memory.wfFrom a (cellsFrom a vs) = true := by
  induction vs generalizing a with
  | nil => rfl
  | cons v vs ih =>
    simp only [List.length_cons] at h
    have hr := ih (a + 1) (by omega)
    rw [cellsFrom]
    split
    · exact Memory.wfFrom_mono hr (by omega)
    · rw [Memory.wfFrom_cons]; exact ⟨Nat.le_refl _, by omega, by assumption, hr⟩

/-- A splice inside `MEM` keeps the canonical form. -/
theorem Memory.writeBytes_wf {m : Memory} {a : Nat} {vs : List Byte} (hm : m.wf = true)
    (h : a + vs.length ≤ Config.memSize) : (m.writeBytes a vs).wf = true := by
  unfold Memory.writeBytes
  split
  · exact hm
  · refine Memory.wfFrom_append (k := a) (Memory.wfFrom_filter _ hm) ?_ ?_ (Nat.zero_le _)
    · intro c hc; simpa using (List.mem_filter.1 hc).2
    · refine Memory.wfFrom_append (k := a + vs.length) (wfFrom_cellsFrom a vs h) ?_ ?_ (by omega)
      · intro c hc; exact (cellsFrom_range _ _ _ hc).2
      · exact Memory.wfFrom_filter_above (lo := 0) hm

theorem Memory.write_wf {m : Memory} {a : Nat} {v : Byte} (hm : m.wf = true) (h : a < Config.memSize) :
    (m.write a v).wf = true := Memory.writeBytes_wf hm (by simp only [List.length_singleton]; omega)

theorem Memory.writeWords_wf {m : Memory} {a : Nat} {ws : List Word} (hm : m.wf = true)
    (h : a + 2 * ws.length ≤ Config.memSize) : (m.writeWords a ws).wf = true :=
  Memory.writeBytes_wf hm (by rw [littleEndian_length]; exact h)

theorem Memory.write16_wf {m : Memory} {a : Nat} {v : Word} (hm : m.wf = true) (h : a + 2 ≤ Config.memSize) :
    (m.write16 a v).wf = true := Memory.writeWords_wf hm (by simp only [List.length_singleton]; omega)

@[simp] theorem Memory.cleared_wf : Memory.cleared.wf = true := rfl

@[simp] theorem Memory.read_cleared (a : Nat) : Memory.cleared.read a = 0x00 := rfl

theorem Memory.read_below {lo : Nat} {m : Memory} (h : Memory.wfFrom lo m = true) {a : Nat} (ha : a < lo) :
    m.read a = 0x00 := by
  induction m generalizing lo with
  | nil => rfl
  | cons c m ih =>
    obtain ⟨b, w⟩ := c
    rw [Memory.wfFrom_cons] at h
    rw [Memory.read_cons, if_neg (by omega)]
    exact ih h.2.2.2 (by omega)

/-- No byte exists at or above `MEM_SIZE` (20_memory.md R50). -/
theorem Memory.read_beyond {m : Memory} (h : m.wf = true) {a : Nat} (ha : Config.memSize ≤ a) : m.read a = 0x00 := by
  suffices ∀ lo, Memory.wfFrom lo m = true → m.read a = 0x00 from this 0 h
  clear h
  induction m with
  | nil => intros; rfl
  | cons c m ih =>
    obtain ⟨b, w⟩ := c
    intro lo h
    rw [Memory.wfFrom_cons] at h
    rw [Memory.read_cons, if_neg (by omega)]
    exact ih _ h.2.2.2

/-- Canonical memories with equal bytes are equal data. -/
theorem Memory.eq_of_read {m n : Memory} (hm : m.wf = true) (hn : n.wf = true)
    (h : ∀ a, m.read a = n.read a) : m = n := by
  suffices ∀ lo, Memory.wfFrom lo m = true → Memory.wfFrom lo n = true → m = n from this 0 hm hn
  clear hm hn
  induction m generalizing n with
  | nil =>
    intro lo _ hn
    cases n with
    | nil => rfl
    | cons c n =>
      obtain ⟨b, w⟩ := c
      have := h b
      rw [Memory.wfFrom_cons] at hn
      simp only [Memory.read_nil, Memory.read_cons, if_true] at this
      exact absurd this.symm hn.2.2.1
  | cons c m ih =>
    obtain ⟨b, w⟩ := c
    intro lo hm hn
    rw [Memory.wfFrom_cons] at hm
    cases n with
    | nil =>
      have := h b
      simp only [Memory.read_nil, Memory.read_cons, if_true] at this
      exact absurd this hm.2.2.1
    | cons d n =>
      obtain ⟨b', w'⟩ := d
      rw [Memory.wfFrom_cons] at hn
      have hb := h b
      have hb' := h b'
      simp only [Memory.read_cons, if_true] at hb hb'
      have heq : b = b' := by
        rcases Nat.lt_trichotomy b b' with hlt | heq | hlt
        · rw [if_neg (by omega), Memory.read_below hn.2.2.2 (by omega)] at hb
          exact absurd hb hm.2.2.1
        · exact heq
        · rw [if_neg (by omega), Memory.read_below hm.2.2.2 (by omega)] at hb'
          exact absurd hb'.symm hn.2.2.1
      subst heq
      simp only [if_true] at hb
      subst hb
      have rest : m = n := by
        refine ih (fun a => ?_) (b + 1) hm.2.2.2 hn.2.2.2
        by_cases hab : b = a
        · rw [Memory.read_below hm.2.2.2 (by omega), Memory.read_below hn.2.2.2 (by omega)]
        · simpa [hab] using h a
      rw [rest]

end Sys2Proof.Machine
end

