-- ==== Sys2Proof/Laws/Layout.lean ====
section
/-! SUPPORT. Where the elements of the zones lie (20_memory.md R55 to R61) and what the layout's operations do to
each byte, pixel and bitmap pixel. -/

namespace Sys2Proof.Machine

/-! ### Addresses -/

theorem fbAddr_eq (x y : Nat) : fbAddr x y = 0x15A00 + 2 * (x + 128 * y) := rfl

theorem fbAddr_inj {x y x' y' : Nat} (hx : x < 128) (hx' : x' < 128) (h : fbAddr x y = fbAddr x' y') :
    x = x' ∧ y = y' := by simp only [fbAddr_eq] at h; omega

/-- Two framebuffer pixels are the same or share no byte. -/
theorem fbAddr_apart {x y x' y' : Nat} (hx : x < 128) (hx' : x' < 128) (h : ¬(x = x' ∧ y = y')) :
    fbAddr x y + 2 ≤ fbAddr x' y' ∨ fbAddr x' y' + 2 ≤ fbAddr x y := by simp only [fbAddr_eq]; omega

theorem fbAddr_range {x y : Nat} (hx : x < 128) (hy : y < 128) :
    0x15A00 ≤ fbAddr x y ∧ fbAddr x y + 2 ≤ 0x1DA00 := by simp only [fbAddr_eq]; omega

theorem palAddr_eq (p e : Nat) : palAddr p e = 0x1DA00 + 2 * (16 * p + e) := rfl

theorem palAddr_range {p e : Nat} (hp : p < 16) (he : e < 16) :
    0x1DA00 ≤ palAddr p e ∧ palAddr p e + 2 ≤ 0x1DC00 := by simp only [palAddr_eq]; omega

theorem palAddr_apart {p e p' e' : Nat} (he : e < 16) (he' : e' < 16) (h : ¬(p = p' ∧ e = e')) :
    palAddr p e + 2 ≤ palAddr p' e' ∨ palAddr p' e' + 2 ≤ palAddr p e := by simp only [palAddr_eq]; omega

theorem bmpByteAddr_eq (s x y : Nat) : bmpByteAddr s x y = 0x1DC00 + 32 * s + 4 * y + x / 2 := rfl

theorem bmpByteAddr_range {s x y : Nat} (hs : s < 256) (hx : x < 8) (hy : y < 8) :
    0x1DC00 ≤ bmpByteAddr s x y ∧ bmpByteAddr s x y + 1 ≤ 0x1FC00 := by
  simp only [bmpByteAddr_eq]; omega

theorem bmpByteAddr_inj {s x y s' x' y' : Nat} (hx : x < 8) (hx' : x' < 8) (hy : y < 8) (hy' : y' < 8)
    (h : bmpByteAddr s x y = bmpByteAddr s' x' y') : s = s' ∧ y = y' ∧ x / 2 = x' / 2 := by
  simp only [bmpByteAddr_eq] at h; omega

theorem descAddr_eq (n : Nat) : descAddr n = 0x1FC00 + 8 * n := rfl

theorem descAddr_range {n : Nat} (hn : n < 128) : 0x1FC00 ≤ descAddr n ∧ descAddr n + 8 ≤ 0x20000 := by
  simp only [descAddr_eq]; omega

/-! ### `Plot` (20_memory.md R62) -/

/-- The coordinates of the framebuffer (20_memory.md R62). -/
theorem onScreen_iff (x y : Int) : onScreen x y ↔ 0 ≤ x ∧ x < 128 ∧ 0 ≤ y ∧ y < 128 := by
  unfold onScreen Config.fbW Config.fbH
  omega

/-- On screen means: a column and a row below 128. -/
theorem onScreen_cases (x y : Int) :
    (¬ onScreen x y) ∨ ∃ px py : Nat, px < 128 ∧ py < 128 ∧ x = px ∧ y = py ∧ onScreen x y := by
  by_cases h : onScreen x y
  · have h' := (onScreen_iff x y).1 h
    exact .inr ⟨x.toNat, y.toNat, by omega, by omega, by omega, by omega, h⟩
  · exact .inl h

theorem plot_offScreen {x y : Int} (h : ¬ onScreen x y) (c : Word) (m : Memory) : plot x y c m = m := if_neg h

theorem plot_onScreen {x y : Nat} (hx : x < 128) (hy : y < 128) (c : Word) (m : Memory) :
    plot x y c m = m.write16 (fbAddr x y) c := by
  unfold plot
  rw [if_pos ((onScreen_iff _ _).2 (by omega)), Int.toNat_natCast, Int.toNat_natCast]

/-- What `Plot` does to every byte. -/
theorem read_plot (x y : Int) (c : Word) (m : Memory) (a : Nat) :
    (plot x y c m).read a =
      if onScreen x y then
        (if a = fbAddr x.toNat y.toNat then loByte c
        else if a = fbAddr x.toNat y.toNat + 1 then hiByte c
        else m.read a)
      else m.read a := by
  unfold plot
  split
  · exact Memory.read_write16 _ _ _ _
  · rfl

/-- `Plot` never writes outside the framebuffer zone. -/
theorem read_plot_outside (x y : Int) (c : Word) (m : Memory) (a : Nat) (h : a < 0x15A00 ∨ 0x1DA00 ≤ a) :
    (plot x y c m).read a = m.read a := by
  rcases onScreen_cases x y with ho | ⟨px, py, hx, hy, rfl, rfl, -⟩
  · rw [plot_offScreen ho]
  · have := fbAddr_range hx hy
    rw [plot_onScreen hx hy, Memory.read_write16, if_neg (by omega), if_neg (by omega)]

/-- What `Plot` does to every pixel. -/
theorem pixel_plot (x y : Int) (c : Word) (m : Memory) (px py : Nat) (hx : px < 128) (hy : py < 128) :
    pixel (plot x y c m) px py = if x = px ∧ y = py then c else pixel m px py := by
  rcases onScreen_cases x y with ho | ⟨qx, qy, hqx, hqy, rfl, rfl, -⟩
  · rw [plot_offScreen ho, if_neg]
    rintro ⟨rfl, rfl⟩
    exact ho ((onScreen_iff _ _).2 (by omega))
  · rw [plot_onScreen hqx hqy]
    unfold pixel
    by_cases he : qx = px ∧ qy = py
    · obtain ⟨rfl, rfl⟩ := he; simp
    · rw [if_neg (by omega)]
      exact Memory.read16_write16_outside _ _ _ _ (fbAddr_apart hx hqx (by omega))

theorem plot_wf {x y : Int} {c : Word} {m : Memory} (hm : m.wf = true) : (plot x y c m).wf = true := by
  rcases onScreen_cases x y with ho | ⟨px, py, hx, hy, rfl, rfl, -⟩
  · rw [plot_offScreen ho]; exact hm
  · have := fbAddr_range hx hy
    rw [plot_onScreen hx hy]
    exact Memory.write16_wf hm (by simp only [Config.memSize]; omega)

/-! ### Bitmaps (20_memory.md R60) -/

/-- The bits of two nibbles side by side. -/
theorem getLsbD_nibbles (h l : BitVec 4) (i : Nat) :
    (h ++ l : Byte).getLsbD i = if i < 4 then l.getLsbD i else h.getLsbD (i - 4) := by
  rw [show (h ++ l : Byte).getLsbD i = (h ++ l : BitVec (4 + 4)).getLsbD i from rfl, BitVec.getLsbD_append]

@[simp] theorem loNibble_append (h l : BitVec 4) : loNibble (h ++ l) = l := by
  apply BitVec.eq_of_getLsbD_eq
  intro i hi
  rw [loNibble, BitVec.getLsbD_extractLsb', getLsbD_nibbles]
  simp [hi]

@[simp] theorem hiNibble_append (h l : BitVec 4) : hiNibble (h ++ l) = h := by
  apply BitVec.eq_of_getLsbD_eq
  intro i hi
  rw [hiNibble, BitVec.getLsbD_extractLsb', getLsbD_nibbles]
  simp [hi]

/-- What `BmpSet` does to every byte. -/
theorem read_bmpSet (s x y : Nat) (v : BitVec 4) (m : Memory) (a : Nat) :
    (bmpSet s x y v m).read a =
      if a = bmpByteAddr s x y then
        (if x % 2 = 0 then hiNibble (m.read a) ++ v else v ++ loNibble (m.read a))
      else m.read a := by
  unfold bmpSet
  dsimp only
  rw [Memory.read_write]
  split
  · subst_vars; rfl
  · rfl

/-- What `BmpSet` does to every bitmap pixel: its own, and no other, its packed neighbour included. -/
theorem bmpGet_bmpSet {s x y s' x' y' : Nat} (v : BitVec 4) (m : Memory) (hx : x < 8) (hx' : x' < 8) (hy : y < 8)
    (hy' : y' < 8) :
    bmpGet (bmpSet s x y v m) s' x' y' = if s' = s ∧ x' = x ∧ y' = y then v else bmpGet m s' x' y' := by
  unfold bmpGet
  dsimp only
  rw [read_bmpSet]
  by_cases ha : bmpByteAddr s' x' y' = bmpByteAddr s x y
  · obtain ⟨rfl, rfl, hd⟩ := bmpByteAddr_inj hx' hx hy' hy ha
    rw [if_pos ha]
    by_cases hxx : x' = x
    · subst hxx; by_cases hp : x' % 2 = 0 <;> simp [hp]
    · rw [if_neg (show ¬(s' = s' ∧ x' = x ∧ y' = y') from fun h => hxx h.2.1)]
      by_cases hp : x % 2 = 0
      · have hp' : ¬ x' % 2 = 0 := by omega
        simp only [hp, hp', if_true, if_false, hiNibble_append]
      · have hp' : x' % 2 = 0 := by omega
        simp only [hp, hp', if_true, if_false, loNibble_append]
  · rw [if_neg ha, if_neg (show ¬(s' = s ∧ x' = x ∧ y' = y) from fun h => ha (by rw [h.1, h.2.1, h.2.2]))]

theorem bmpSet_wf {s x y : Nat} {v : BitVec 4} {m : Memory} (hm : m.wf = true) (hs : s < 256) (hx : x < 8)
    (hy : y < 8) : (bmpSet s x y v m).wf = true := by
  have := bmpByteAddr_range hs hx hy
  exact Memory.write_wf hm (by simp only [Config.memSize]; omega)

/-! ### What RASTER reads (44_rasterizer.md R190) -/

theorem read_rasterSource (m : Memory) (a : Nat) (h : Config.palBase ≤ a) :
    (rasterSource m).read a = m.read a := by
  have := Memory.read_filter m (fun x => decide (Config.palBase ≤ x)) a
  rw [if_pos (by simpa using h)] at this
  exact this

theorem read16_rasterSource (m : Memory) (a : Nat) (h : Config.palBase ≤ a) :
    (rasterSource m).read16 a = m.read16 a :=
  Memory.read16_congr (read_rasterSource m a h) (read_rasterSource m (a + 1) (by omega))

@[simp] theorem palColor_rasterSource (m : Memory) (p ci : Nat) :
    palColor (rasterSource m) p ci = palColor m p ci :=
  read16_rasterSource m _ (by simp only [palAddr_eq, Config.palBase]; omega)

@[simp] theorem bmpGet_rasterSource (m : Memory) (s x y : Nat) :
    bmpGet (rasterSource m) s x y = bmpGet m s x y := by
  unfold bmpGet
  rw [read_rasterSource m _ (by simp only [bmpByteAddr_eq, Config.palBase]; omega)]

@[simp] theorem descRead_rasterSource (m : Memory) (n : Nat) : descRead (rasterSource m) n = descRead m n := by
  have h (k : Nat) : Config.palBase ≤ descAddr n + k := by simp only [descAddr_eq, Config.palBase]; omega
  unfold descRead
  dsimp only
  rw [read16_rasterSource m (descAddr n) (h 0), read16_rasterSource m _ (h 2), read_rasterSource m _ (h 4),
    read_rasterSource m _ (h 5), read_rasterSource m _ (h 6)]

@[simp] theorem tileColor_rasterSource (m : Memory) (d : Descriptor) (tx ty x y : Nat) :
    tileColor (rasterSource m) d tx ty x y = tileColor m d tx ty x y := by
  unfold tileColor
  simp

theorem tiles_cases (d : Descriptor) : d.tiles = 1 ∨ d.tiles = 2 ∨ d.tiles = 4 ∨ d.tiles = 8 := by
  unfold Descriptor.tiles Config.sizeTable
  split <;> simp

end Sys2Proof.Machine
end

