-- ==== Sys2Proof/Laws/State.lean ====
section
/-! SUPPORT. One lemma per field of `State` per update, so that no proof unfolds a record update. -/

namespace Sys2Proof.Machine

variable (s : State)

@[simp] theorem State.setCmd_cmd (w : Word) : (s.setCmd w).cmd = w := rfl
@[simp] theorem State.setCmd_arg0 (w : Word) : (s.setCmd w).arg0 = s.arg0 := rfl
@[simp] theorem State.setCmd_arg1 (w : Word) : (s.setCmd w).arg1 = s.arg1 := rfl
@[simp] theorem State.setCmd_arg2 (w : Word) : (s.setCmd w).arg2 = s.arg2 := rfl
@[simp] theorem State.setCmd_arg3 (w : Word) : (s.setCmd w).arg3 = s.arg3 := rfl
@[simp] theorem State.setCmd_arg4 (w : Word) : (s.setCmd w).arg4 = s.arg4 := rfl
@[simp] theorem State.setCmd_res0 (w : Word) : (s.setCmd w).res0 = s.res0 := rfl
@[simp] theorem State.setCmd_res1 (w : Word) : (s.setCmd w).res1 = s.res1 := rfl
@[simp] theorem State.setCmd_res2 (w : Word) : (s.setCmd w).res2 = s.res2 := rfl
@[simp] theorem State.setCmd_status (w : Word) : (s.setCmd w).status = s.status := rfl
@[simp] theorem State.setCmd_mem (w : Word) : (s.setCmd w).mem = s.mem := rfl
@[simp] theorem State.setCmd_inputs (w : Word) : (s.setCmd w).inputs = s.inputs := rfl
@[simp] theorem State.setCmd_response (w : Word) : (s.setCmd w).response = s.response := rfl

@[simp] theorem State.setArg0_cmd (w : Word) : (s.setArg0 w).cmd = s.cmd := rfl
@[simp] theorem State.setArg0_arg0 (w : Word) : (s.setArg0 w).arg0 = w := rfl
@[simp] theorem State.setArg0_arg1 (w : Word) : (s.setArg0 w).arg1 = s.arg1 := rfl
@[simp] theorem State.setArg0_arg2 (w : Word) : (s.setArg0 w).arg2 = s.arg2 := rfl
@[simp] theorem State.setArg0_arg3 (w : Word) : (s.setArg0 w).arg3 = s.arg3 := rfl
@[simp] theorem State.setArg0_arg4 (w : Word) : (s.setArg0 w).arg4 = s.arg4 := rfl
@[simp] theorem State.setArg0_res0 (w : Word) : (s.setArg0 w).res0 = s.res0 := rfl
@[simp] theorem State.setArg0_res1 (w : Word) : (s.setArg0 w).res1 = s.res1 := rfl
@[simp] theorem State.setArg0_res2 (w : Word) : (s.setArg0 w).res2 = s.res2 := rfl
@[simp] theorem State.setArg0_status (w : Word) : (s.setArg0 w).status = s.status := rfl
@[simp] theorem State.setArg0_mem (w : Word) : (s.setArg0 w).mem = s.mem := rfl
@[simp] theorem State.setArg0_inputs (w : Word) : (s.setArg0 w).inputs = s.inputs := rfl
@[simp] theorem State.setArg0_response (w : Word) : (s.setArg0 w).response = s.response := rfl

@[simp] theorem State.setArg1_cmd (w : Word) : (s.setArg1 w).cmd = s.cmd := rfl
@[simp] theorem State.setArg1_arg0 (w : Word) : (s.setArg1 w).arg0 = s.arg0 := rfl
@[simp] theorem State.setArg1_arg1 (w : Word) : (s.setArg1 w).arg1 = w := rfl
@[simp] theorem State.setArg1_arg2 (w : Word) : (s.setArg1 w).arg2 = s.arg2 := rfl
@[simp] theorem State.setArg1_arg3 (w : Word) : (s.setArg1 w).arg3 = s.arg3 := rfl
@[simp] theorem State.setArg1_arg4 (w : Word) : (s.setArg1 w).arg4 = s.arg4 := rfl
@[simp] theorem State.setArg1_res0 (w : Word) : (s.setArg1 w).res0 = s.res0 := rfl
@[simp] theorem State.setArg1_res1 (w : Word) : (s.setArg1 w).res1 = s.res1 := rfl
@[simp] theorem State.setArg1_res2 (w : Word) : (s.setArg1 w).res2 = s.res2 := rfl
@[simp] theorem State.setArg1_status (w : Word) : (s.setArg1 w).status = s.status := rfl
@[simp] theorem State.setArg1_mem (w : Word) : (s.setArg1 w).mem = s.mem := rfl
@[simp] theorem State.setArg1_inputs (w : Word) : (s.setArg1 w).inputs = s.inputs := rfl
@[simp] theorem State.setArg1_response (w : Word) : (s.setArg1 w).response = s.response := rfl

@[simp] theorem State.setArg2_cmd (w : Word) : (s.setArg2 w).cmd = s.cmd := rfl
@[simp] theorem State.setArg2_arg0 (w : Word) : (s.setArg2 w).arg0 = s.arg0 := rfl
@[simp] theorem State.setArg2_arg1 (w : Word) : (s.setArg2 w).arg1 = s.arg1 := rfl
@[simp] theorem State.setArg2_arg2 (w : Word) : (s.setArg2 w).arg2 = w := rfl
@[simp] theorem State.setArg2_arg3 (w : Word) : (s.setArg2 w).arg3 = s.arg3 := rfl
@[simp] theorem State.setArg2_arg4 (w : Word) : (s.setArg2 w).arg4 = s.arg4 := rfl
@[simp] theorem State.setArg2_res0 (w : Word) : (s.setArg2 w).res0 = s.res0 := rfl
@[simp] theorem State.setArg2_res1 (w : Word) : (s.setArg2 w).res1 = s.res1 := rfl
@[simp] theorem State.setArg2_res2 (w : Word) : (s.setArg2 w).res2 = s.res2 := rfl
@[simp] theorem State.setArg2_status (w : Word) : (s.setArg2 w).status = s.status := rfl
@[simp] theorem State.setArg2_mem (w : Word) : (s.setArg2 w).mem = s.mem := rfl
@[simp] theorem State.setArg2_inputs (w : Word) : (s.setArg2 w).inputs = s.inputs := rfl
@[simp] theorem State.setArg2_response (w : Word) : (s.setArg2 w).response = s.response := rfl

@[simp] theorem State.setArg3_cmd (w : Word) : (s.setArg3 w).cmd = s.cmd := rfl
@[simp] theorem State.setArg3_arg0 (w : Word) : (s.setArg3 w).arg0 = s.arg0 := rfl
@[simp] theorem State.setArg3_arg1 (w : Word) : (s.setArg3 w).arg1 = s.arg1 := rfl
@[simp] theorem State.setArg3_arg2 (w : Word) : (s.setArg3 w).arg2 = s.arg2 := rfl
@[simp] theorem State.setArg3_arg3 (w : Word) : (s.setArg3 w).arg3 = w := rfl
@[simp] theorem State.setArg3_arg4 (w : Word) : (s.setArg3 w).arg4 = s.arg4 := rfl
@[simp] theorem State.setArg3_res0 (w : Word) : (s.setArg3 w).res0 = s.res0 := rfl
@[simp] theorem State.setArg3_res1 (w : Word) : (s.setArg3 w).res1 = s.res1 := rfl
@[simp] theorem State.setArg3_res2 (w : Word) : (s.setArg3 w).res2 = s.res2 := rfl
@[simp] theorem State.setArg3_status (w : Word) : (s.setArg3 w).status = s.status := rfl
@[simp] theorem State.setArg3_mem (w : Word) : (s.setArg3 w).mem = s.mem := rfl
@[simp] theorem State.setArg3_inputs (w : Word) : (s.setArg3 w).inputs = s.inputs := rfl
@[simp] theorem State.setArg3_response (w : Word) : (s.setArg3 w).response = s.response := rfl

@[simp] theorem State.setArg4_cmd (w : Word) : (s.setArg4 w).cmd = s.cmd := rfl
@[simp] theorem State.setArg4_arg0 (w : Word) : (s.setArg4 w).arg0 = s.arg0 := rfl
@[simp] theorem State.setArg4_arg1 (w : Word) : (s.setArg4 w).arg1 = s.arg1 := rfl
@[simp] theorem State.setArg4_arg2 (w : Word) : (s.setArg4 w).arg2 = s.arg2 := rfl
@[simp] theorem State.setArg4_arg3 (w : Word) : (s.setArg4 w).arg3 = s.arg3 := rfl
@[simp] theorem State.setArg4_arg4 (w : Word) : (s.setArg4 w).arg4 = w := rfl
@[simp] theorem State.setArg4_res0 (w : Word) : (s.setArg4 w).res0 = s.res0 := rfl
@[simp] theorem State.setArg4_res1 (w : Word) : (s.setArg4 w).res1 = s.res1 := rfl
@[simp] theorem State.setArg4_res2 (w : Word) : (s.setArg4 w).res2 = s.res2 := rfl
@[simp] theorem State.setArg4_status (w : Word) : (s.setArg4 w).status = s.status := rfl
@[simp] theorem State.setArg4_mem (w : Word) : (s.setArg4 w).mem = s.mem := rfl
@[simp] theorem State.setArg4_inputs (w : Word) : (s.setArg4 w).inputs = s.inputs := rfl
@[simp] theorem State.setArg4_response (w : Word) : (s.setArg4 w).response = s.response := rfl

@[simp] theorem State.setRes0_cmd (w : Word) : (s.setRes0 w).cmd = s.cmd := rfl
@[simp] theorem State.setRes0_arg0 (w : Word) : (s.setRes0 w).arg0 = s.arg0 := rfl
@[simp] theorem State.setRes0_arg1 (w : Word) : (s.setRes0 w).arg1 = s.arg1 := rfl
@[simp] theorem State.setRes0_arg2 (w : Word) : (s.setRes0 w).arg2 = s.arg2 := rfl
@[simp] theorem State.setRes0_arg3 (w : Word) : (s.setRes0 w).arg3 = s.arg3 := rfl
@[simp] theorem State.setRes0_arg4 (w : Word) : (s.setRes0 w).arg4 = s.arg4 := rfl
@[simp] theorem State.setRes0_res0 (w : Word) : (s.setRes0 w).res0 = w := rfl
@[simp] theorem State.setRes0_res1 (w : Word) : (s.setRes0 w).res1 = s.res1 := rfl
@[simp] theorem State.setRes0_res2 (w : Word) : (s.setRes0 w).res2 = s.res2 := rfl
@[simp] theorem State.setRes0_status (w : Word) : (s.setRes0 w).status = s.status := rfl
@[simp] theorem State.setRes0_mem (w : Word) : (s.setRes0 w).mem = s.mem := rfl
@[simp] theorem State.setRes0_inputs (w : Word) : (s.setRes0 w).inputs = s.inputs := rfl
@[simp] theorem State.setRes0_response (w : Word) : (s.setRes0 w).response = s.response := rfl

@[simp] theorem State.setRes1_cmd (w : Word) : (s.setRes1 w).cmd = s.cmd := rfl
@[simp] theorem State.setRes1_arg0 (w : Word) : (s.setRes1 w).arg0 = s.arg0 := rfl
@[simp] theorem State.setRes1_arg1 (w : Word) : (s.setRes1 w).arg1 = s.arg1 := rfl
@[simp] theorem State.setRes1_arg2 (w : Word) : (s.setRes1 w).arg2 = s.arg2 := rfl
@[simp] theorem State.setRes1_arg3 (w : Word) : (s.setRes1 w).arg3 = s.arg3 := rfl
@[simp] theorem State.setRes1_arg4 (w : Word) : (s.setRes1 w).arg4 = s.arg4 := rfl
@[simp] theorem State.setRes1_res0 (w : Word) : (s.setRes1 w).res0 = s.res0 := rfl
@[simp] theorem State.setRes1_res1 (w : Word) : (s.setRes1 w).res1 = w := rfl
@[simp] theorem State.setRes1_res2 (w : Word) : (s.setRes1 w).res2 = s.res2 := rfl
@[simp] theorem State.setRes1_status (w : Word) : (s.setRes1 w).status = s.status := rfl
@[simp] theorem State.setRes1_mem (w : Word) : (s.setRes1 w).mem = s.mem := rfl
@[simp] theorem State.setRes1_inputs (w : Word) : (s.setRes1 w).inputs = s.inputs := rfl
@[simp] theorem State.setRes1_response (w : Word) : (s.setRes1 w).response = s.response := rfl

@[simp] theorem State.setRes2_cmd (w : Word) : (s.setRes2 w).cmd = s.cmd := rfl
@[simp] theorem State.setRes2_arg0 (w : Word) : (s.setRes2 w).arg0 = s.arg0 := rfl
@[simp] theorem State.setRes2_arg1 (w : Word) : (s.setRes2 w).arg1 = s.arg1 := rfl
@[simp] theorem State.setRes2_arg2 (w : Word) : (s.setRes2 w).arg2 = s.arg2 := rfl
@[simp] theorem State.setRes2_arg3 (w : Word) : (s.setRes2 w).arg3 = s.arg3 := rfl
@[simp] theorem State.setRes2_arg4 (w : Word) : (s.setRes2 w).arg4 = s.arg4 := rfl
@[simp] theorem State.setRes2_res0 (w : Word) : (s.setRes2 w).res0 = s.res0 := rfl
@[simp] theorem State.setRes2_res1 (w : Word) : (s.setRes2 w).res1 = s.res1 := rfl
@[simp] theorem State.setRes2_res2 (w : Word) : (s.setRes2 w).res2 = w := rfl
@[simp] theorem State.setRes2_status (w : Word) : (s.setRes2 w).status = s.status := rfl
@[simp] theorem State.setRes2_mem (w : Word) : (s.setRes2 w).mem = s.mem := rfl
@[simp] theorem State.setRes2_inputs (w : Word) : (s.setRes2 w).inputs = s.inputs := rfl
@[simp] theorem State.setRes2_response (w : Word) : (s.setRes2 w).response = s.response := rfl

@[simp] theorem State.setStatus_cmd (w : Word) : (s.setStatus w).cmd = s.cmd := rfl
@[simp] theorem State.setStatus_arg0 (w : Word) : (s.setStatus w).arg0 = s.arg0 := rfl
@[simp] theorem State.setStatus_arg1 (w : Word) : (s.setStatus w).arg1 = s.arg1 := rfl
@[simp] theorem State.setStatus_arg2 (w : Word) : (s.setStatus w).arg2 = s.arg2 := rfl
@[simp] theorem State.setStatus_arg3 (w : Word) : (s.setStatus w).arg3 = s.arg3 := rfl
@[simp] theorem State.setStatus_arg4 (w : Word) : (s.setStatus w).arg4 = s.arg4 := rfl
@[simp] theorem State.setStatus_res0 (w : Word) : (s.setStatus w).res0 = s.res0 := rfl
@[simp] theorem State.setStatus_res1 (w : Word) : (s.setStatus w).res1 = s.res1 := rfl
@[simp] theorem State.setStatus_res2 (w : Word) : (s.setStatus w).res2 = s.res2 := rfl
@[simp] theorem State.setStatus_status (w : Word) : (s.setStatus w).status = w := rfl
@[simp] theorem State.setStatus_mem (w : Word) : (s.setStatus w).mem = s.mem := rfl
@[simp] theorem State.setStatus_inputs (w : Word) : (s.setStatus w).inputs = s.inputs := rfl
@[simp] theorem State.setStatus_response (w : Word) : (s.setStatus w).response = s.response := rfl

@[simp] theorem State.setMem_cmd (w : Memory) : (s.setMem w).cmd = s.cmd := rfl
@[simp] theorem State.setMem_arg0 (w : Memory) : (s.setMem w).arg0 = s.arg0 := rfl
@[simp] theorem State.setMem_arg1 (w : Memory) : (s.setMem w).arg1 = s.arg1 := rfl
@[simp] theorem State.setMem_arg2 (w : Memory) : (s.setMem w).arg2 = s.arg2 := rfl
@[simp] theorem State.setMem_arg3 (w : Memory) : (s.setMem w).arg3 = s.arg3 := rfl
@[simp] theorem State.setMem_arg4 (w : Memory) : (s.setMem w).arg4 = s.arg4 := rfl
@[simp] theorem State.setMem_res0 (w : Memory) : (s.setMem w).res0 = s.res0 := rfl
@[simp] theorem State.setMem_res1 (w : Memory) : (s.setMem w).res1 = s.res1 := rfl
@[simp] theorem State.setMem_res2 (w : Memory) : (s.setMem w).res2 = s.res2 := rfl
@[simp] theorem State.setMem_status (w : Memory) : (s.setMem w).status = s.status := rfl
@[simp] theorem State.setMem_mem (w : Memory) : (s.setMem w).mem = w := rfl
@[simp] theorem State.setMem_inputs (w : Memory) : (s.setMem w).inputs = s.inputs := rfl
@[simp] theorem State.setMem_response (w : Memory) : (s.setMem w).response = s.response := rfl

@[simp] theorem State.setPort_cmd (rest : List Input) (r : Option Word) : (s.setPort rest r).cmd = s.cmd := rfl
@[simp] theorem State.setPort_arg0 (rest : List Input) (r : Option Word) : (s.setPort rest r).arg0 = s.arg0 := rfl
@[simp] theorem State.setPort_arg1 (rest : List Input) (r : Option Word) : (s.setPort rest r).arg1 = s.arg1 := rfl
@[simp] theorem State.setPort_arg2 (rest : List Input) (r : Option Word) : (s.setPort rest r).arg2 = s.arg2 := rfl
@[simp] theorem State.setPort_arg3 (rest : List Input) (r : Option Word) : (s.setPort rest r).arg3 = s.arg3 := rfl
@[simp] theorem State.setPort_arg4 (rest : List Input) (r : Option Word) : (s.setPort rest r).arg4 = s.arg4 := rfl
@[simp] theorem State.setPort_res0 (rest : List Input) (r : Option Word) : (s.setPort rest r).res0 = s.res0 := rfl
@[simp] theorem State.setPort_res1 (rest : List Input) (r : Option Word) : (s.setPort rest r).res1 = s.res1 := rfl
@[simp] theorem State.setPort_res2 (rest : List Input) (r : Option Word) : (s.setPort rest r).res2 = s.res2 := rfl
@[simp] theorem State.setPort_status (rest : List Input) (r : Option Word) : (s.setPort rest r).status = s.status := rfl
@[simp] theorem State.setPort_mem (rest : List Input) (r : Option Word) : (s.setPort rest r).mem = s.mem := rfl
@[simp] theorem State.setPort_inputs (rest : List Input) (r : Option Word) : (s.setPort rest r).inputs = rest := rfl
@[simp] theorem State.setPort_response (rest : List Input) (r : Option Word) : (s.setPort rest r).response = r := rfl

/-! The operands a command reads are those of the ARG registers alone. -/

@[simp] theorem State.setCmd_args (w : Word) : (s.setCmd w).args = s.args := rfl
@[simp] theorem State.setCmd_address (w : Word) : (s.setCmd w).address = s.address := rfl
@[simp] theorem State.setRes0_args (w : Word) : (s.setRes0 w).args = s.args := rfl
@[simp] theorem State.setRes0_address (w : Word) : (s.setRes0 w).address = s.address := rfl
@[simp] theorem State.setRes1_args (w : Word) : (s.setRes1 w).args = s.args := rfl
@[simp] theorem State.setRes1_address (w : Word) : (s.setRes1 w).address = s.address := rfl
@[simp] theorem State.setRes2_args (w : Word) : (s.setRes2 w).args = s.args := rfl
@[simp] theorem State.setRes2_address (w : Word) : (s.setRes2 w).address = s.address := rfl
@[simp] theorem State.setStatus_args (w : Word) : (s.setStatus w).args = s.args := rfl
@[simp] theorem State.setStatus_address (w : Word) : (s.setStatus w).address = s.address := rfl
@[simp] theorem State.setMem_args (m : Memory) : (s.setMem m).args = s.args := rfl
@[simp] theorem State.setMem_address (m : Memory) : (s.setMem m).address = s.address := rfl
@[simp] theorem State.setPort_args (rest : List Input) (r : Option Word) : (s.setPort rest r).args = s.args := rfl
@[simp] theorem State.setPort_address (rest : List Input) (r : Option Word) :
    (s.setPort rest r).address = s.address := rfl

/-! The state after reset (70_reset_and_hazards.md R252). -/

@[simp] theorem State.reset_cmd : State.reset.cmd = 0x0000 := rfl
@[simp] theorem State.reset_arg0 : State.reset.arg0 = 0x0000 := rfl
@[simp] theorem State.reset_arg1 : State.reset.arg1 = 0x0000 := rfl
@[simp] theorem State.reset_arg2 : State.reset.arg2 = 0x0000 := rfl
@[simp] theorem State.reset_arg3 : State.reset.arg3 = 0x0000 := rfl
@[simp] theorem State.reset_arg4 : State.reset.arg4 = 0x0000 := rfl
@[simp] theorem State.reset_res0 : State.reset.res0 = 0x0000 := rfl
@[simp] theorem State.reset_res1 : State.reset.res1 = 0x0000 := rfl
@[simp] theorem State.reset_res2 : State.reset.res2 = 0x0000 := rfl
@[simp] theorem State.reset_status : State.reset.status = 0x0000 := rfl
@[simp] theorem State.reset_mem : State.reset.mem = [] := rfl
@[simp] theorem State.reset_inputs : State.reset.inputs = [] := rfl
@[simp] theorem State.reset_response : State.reset.response = none := rfl

/-- Two states with equal fields are equal. -/
theorem State.eq_of_fields {s t : State} (hc : t.cmd = s.cmd) (h0 : t.arg0 = s.arg0) (h1 : t.arg1 = s.arg1)
    (h2 : t.arg2 = s.arg2) (h3 : t.arg3 = s.arg3) (h4 : t.arg4 = s.arg4) (r0 : t.res0 = s.res0)
    (r1 : t.res1 = s.res1) (r2 : t.res2 = s.res2) (hs : t.status = s.status) (hm : t.mem = s.mem)
    (hi : t.inputs = s.inputs) (hr : t.response = s.response) : t = s := by
  cases s; cases t; simp_all

end Sys2Proof.Machine
end

