-- ==== Sys2Proof/Laws/Ops.lean ====
section
/-! SUPPORT. What the shared operations of Machine/Ops.lean and Machine/Operands.lean can do, each said once. -/

namespace Sys2Proof.Machine

/-! ### Loops (00_scope.md R10) -/

@[simp] theorem loop_zero (body : Nat → Memory → Memory) (m : Memory) : loop 0 body m = m := rfl

theorem loop_succ (n : Nat) (body : Nat → Memory → Memory) (m : Memory) :
    loop (n + 1) body m = body n (loop n body m) := by
  simp [loop, List.range_succ]

/-- What holds before a loop and is kept by each pass holds after it. -/
theorem loop_induction {P : Memory → Prop} {n : Nat} {body : Nat → Memory → Memory} {m : Memory} (h0 : P m)
    (hstep : ∀ i m, i < n → P m → P (body i m)) : P (loop n body m) := by
  induction n with
  | zero => exact h0
  | succ n ih =>
    rw [loop_succ]
    exact hstep n _ (Nat.lt_succ_self n) (ih fun i m hi => hstep i m (Nat.lt_succ_of_lt hi))

/-- A relation between the memory so far and the number of passes done. -/
theorem loop_induction_on {P : Nat → Memory → Prop} {n : Nat} {body : Nat → Memory → Memory} {m : Memory}
    (h0 : P 0 m) (hstep : ∀ i m, i < n → P i m → P (i + 1) (body i m)) : P n (loop n body m) := by
  induction n with
  | zero => exact h0
  | succ n ih =>
    rw [loop_succ]
    exact hstep n _ (Nat.lt_succ_self n) (ih fun i m hi => hstep i m (Nat.lt_succ_of_lt hi))

/-! ### Errors and completion (60_exceptions.md R221, R222) -/

theorem raise_eq (e : ErrorCode) (s : State) : raise e s = .next (s.setStatus (errorStatus e)) := rfl

theorem complete_eq (s : State) : complete s = .next (s.setStatus 0x0000) := rfl

@[simp] theorem errorStatus_illegalCmd : errorStatus .illegalCmd = 0x0011 := by decide

@[simp] theorem errorStatus_argRange : errorStatus .argRange = 0x0021 := by decide

@[simp] theorem errorStatus_addrRange : errorStatus .addrRange = 0x0031 := by decide

/-- The template when every operand is legal. -/
theorem runChecked_legal {i : Instr} {effect : State → State} {s : State}
    (h : firstBadOperand i.operands s.args = none) :
    runChecked i effect s = .next ((effect s).setStatus 0x0000) := by
  simp [runChecked, h, complete, successStatus]

/-- The template when operand checking fails. -/
theorem runChecked_bad {i : Instr} {effect : State → State} {s : State} {b : BadOperand}
    (h : firstBadOperand i.operands s.args = some b) :
    runChecked i effect s = .next (s.setStatus (errorStatus (errorOfBadOperand b))) := by
  simp [runChecked, h, raise]

/-- Everything the template of a command can do (00_scope.md R10, R11). -/
theorem runChecked_cases {i : Instr} {effect : State → State} {s : State} {r : StepResult}
    (h : runChecked i effect s = r) :
    (firstBadOperand i.operands s.args = none ∧ r = .next ((effect s).setStatus 0x0000)) ∨
    (firstBadOperand i.operands s.args = some .address ∧ r = .next (s.setStatus 0x0031)) ∨
    (firstBadOperand i.operands s.args = some .value ∧ r = .next (s.setStatus 0x0021)) := by
  subst h
  rcases hb : firstBadOperand i.operands s.args with _ | b
  · exact .inl ⟨rfl, runChecked_legal hb⟩
  · cases b with
    | address => exact .inr (.inl ⟨rfl, by rw [runChecked_bad hb]; rfl⟩)
    | value => exact .inr (.inr ⟨rfl, by rw [runChecked_bad hb]; rfl⟩)

/-! ### Operand checks (30_encoding.md R84 to R86) -/

theorem firstBadOperand_addr (n : Nat) (ks : List OperandKind) (lo hi : Word) (args : List Word) :
    firstBadOperand (.addr n :: ks) (lo :: hi :: args) =
      if addrOperand lo hi + n ≤ Config.memSize then firstBadOperand ks args else some .address := rfl

theorem firstBadOperand_byte (ks : List OperandKind) (w : Word) (args : List Word) :
    firstBadOperand (.byte :: ks) (w :: args) =
      if w.toNat ≤ 255 then firstBadOperand ks args else some .value := rfl

theorem firstBadOperand_idx (b : Nat) (ks : List OperandKind) (w : Word) (args : List Word) :
    firstBadOperand (.idx b :: ks) (w :: args) =
      if w.toNat < b then firstBadOperand ks args else some .value := rfl

@[simp] theorem firstBadOperand_nil (args : List Word) : firstBadOperand [] args = none := by
  cases args <;> rfl

theorem badOperand_rd8 (s : State) : firstBadOperand Instr.rd8.operands s.args =
    if s.address + 1 ≤ Config.memSize then none else some .address := rfl

theorem badOperand_wr8 (s : State) : firstBadOperand Instr.wr8.operands s.args =
    if s.address + 1 ≤ Config.memSize then (if s.arg2.toNat ≤ 255 then none else some .value)
    else some .address := rfl

theorem badOperand_rd16 (s : State) : firstBadOperand Instr.rd16.operands s.args =
    if s.address + 2 ≤ Config.memSize then none else some .address := rfl

theorem badOperand_wr16 (s : State) : firstBadOperand Instr.wr16.operands s.args =
    if s.address + 2 ≤ Config.memSize then none else some .address := rfl

theorem badOperand_encode (s : State) : firstBadOperand Instr.encode.operands s.args =
    if s.arg0.toNat ≤ 255 then
      (if s.arg1.toNat ≤ 255 then (if s.arg2.toNat ≤ 255 then none else some .value) else some .value)
    else some .value := rfl

theorem badOperand_sprSet (s : State) : firstBadOperand Instr.sprSet.operands s.args =
    if s.arg0.toNat < 256 then
      (if s.arg1.toNat < 8 then
        (if s.arg2.toNat < 8 then (if s.arg3.toNat < 16 then none else some .value) else some .value)
      else some .value)
    else some .value := rfl

theorem badOperand_sprGet (s : State) : firstBadOperand Instr.sprGet.operands s.args =
    if s.arg0.toNat < 256 then
      (if s.arg1.toNat < 8 then (if s.arg2.toNat < 8 then none else some .value) else some .value)
    else some .value := rfl

theorem badOperand_sprSetRow (s : State) : firstBadOperand Instr.sprSetRow.operands s.args =
    if s.arg0.toNat < 256 then (if s.arg1.toNat < 8 then none else some .value) else some .value := rfl

theorem badOperand_palSet (s : State) : firstBadOperand Instr.palSet.operands s.args =
    if s.arg0.toNat < 16 then (if s.arg1.toNat < 16 then none else some .value) else some .value := rfl

theorem badOperand_palGet (s : State) : firstBadOperand Instr.palGet.operands s.args =
    if s.arg0.toNat < 16 then (if s.arg1.toNat < 16 then none else some .value) else some .value := rfl

theorem badOperand_fbGet (s : State) : firstBadOperand Instr.fbGet.operands s.args =
    if s.arg0.toNat < 16384 then none else some .value := rfl

/-! ### Registers (10_state.md R23 to R31) -/

/-- Storing in a register leaves `MEM`, the results, STATUS and the host port. -/
theorem writeReg_frame (s : State) (r : Reg) (v : Word) :
    (s.writeReg r v).mem = s.mem ∧ (s.writeReg r v).res0 = s.res0 ∧ (s.writeReg r v).res1 = s.res1 ∧
    (s.writeReg r v).res2 = s.res2 ∧ (s.writeReg r v).status = s.status ∧
    (s.writeReg r v).inputs = s.inputs ∧ (s.writeReg r v).response = s.response := by
  cases r <;> simp [State.writeReg]

theorem readStatus_of_legal {s : State} (h : s.status &&& 0x00F1 = s.status) : readStatus s = s.status := h

end Sys2Proof.Machine
end

