-- ==== Sys2Proof/Laws/PerInstr.lean ====
section
/-! SUPPORT. Facts about every instruction as syntax, one lemma per constructor. -/

namespace Sys2Proof.Laws.CommandWord

/-- The command word is `0x00OO`: its RSV byte is zero (30_encoding.md R80, R82). -/
def Statement (i : Instr) : Prop := (Sys2Proof.encode i).extractLsb' 8 8 = 0#8

theorem nop : Statement .nop := by unfold Statement; decide
theorem clear : Statement .clear := by unfold Statement; decide
theorem rd8 : Statement .rd8 := by unfold Statement; decide
theorem wr8 : Statement .wr8 := by unfold Statement; decide
theorem rd16 : Statement .rd16 := by unfold Statement; decide
theorem wr16 : Statement .wr16 := by unfold Statement; decide
theorem encode : Statement .encode := by unfold Statement; decide
theorem decode : Statement .decode := by unfold Statement; decide
theorem sprSet : Statement .sprSet := by unfold Statement; decide
theorem sprGet : Statement .sprGet := by unfold Statement; decide
theorem sprSetRow : Statement .sprSetRow := by unfold Statement; decide
theorem palSet : Statement .palSet := by unfold Statement; decide
theorem palGet : Statement .palGet := by unfold Statement; decide
theorem pset : Statement .pset := by unfold Statement; decide
theorem fill : Statement .fill := by unfold Statement; decide
theorem rect : Statement .rect := by unfold Statement; decide
theorem line : Statement .line := by unfold Statement; decide
theorem fbGet : Statement .fbGet := by unfold Statement; decide
theorem raster : Statement .raster := by unfold Statement; decide

end Sys2Proof.Laws.CommandWord
end

