-- ==== Sys2Proof/Laws/Step.lean ====
section
/-! SUPPORT. Everything a command and a step can do, each said once. -/

namespace Sys2Proof.Machine

/-- Every command follows the template of 00_scope.md R11 with an effect of its own. -/
theorem exec_runChecked (i : Instr) : ∃ effect, ∀ s, exec i s = runChecked i effect s := by
  cases i <;> exact ⟨_, fun _ => rfl⟩

/-- Decoding succeeds or names its reason (30_encoding.md R83). -/
theorem startCommand_cases (w : Word) (s : State) :
    (∃ i, decode w = .ok i ∧ startCommand w s = exec i (s.setCmd w)) ∨
    (∃ e, decode w = .error e ∧ startCommand w s = .next ((s.setCmd w).setStatus 0x0011)) := by
  rcases h : decode w with e | i
  · exact .inr ⟨e, rfl, by simp [startCommand, h, raise]⟩
  · exact .inl ⟨i, rfl, by simp [startCommand, h]⟩

/-- Everything a step can do (10_state.md R32): nothing pending, a read, a write to CMD, a write elsewhere, a
reset. -/
theorem step_cases (s : State) :
    (s.inputs = [] ∧ step s = .next s) ∨
    (∃ n rest, s.inputs = .read n :: rest ∧
      step s = .next (s.setPort rest (some (s.readReg (regOfNumber n))))) ∨
    (∃ n w rest, s.inputs = .write n w :: rest ∧ regOfNumber n = .cmd ∧
      step s = startCommand w (s.setPort rest none)) ∨
    (∃ n v rest, s.inputs = .write n v :: rest ∧ regOfNumber n ≠ .cmd ∧
      step s = .next ((s.setPort rest none).writeReg (regOfNumber n) v)) ∨
    (∃ rest, s.inputs = .reset :: rest ∧ step s = .next (State.reset.setPort rest none)) := by
  rcases h : s.inputs with _ | ⟨i, rest⟩
  · exact .inl ⟨rfl, by simp [step, serve, h]⟩
  · cases i with
    | read n => exact .inr (.inl ⟨n, rest, rfl, by simp [step, serve, h, hostRead]⟩)
    | write n v =>
      by_cases hr : regOfNumber n = .cmd
      · exact .inr (.inr (.inl ⟨n, v, rest, rfl, hr, by simp [step, serve, h, hostWrite, hr]⟩))
      · refine .inr (.inr (.inr (.inl ⟨n, v, rest, rfl, hr, ?_⟩)))
        simp only [step, serve, h, hostWrite]
    | reset => exact .inr (.inr (.inr (.inr ⟨rest, rfl, by simp [step, serve, h, hardwareReset]⟩)))

/-- A run whose first step goes on is that step and the rest of the run. -/
theorem run_of_step_next {s t : State} (k : Nat) (h : step s = .next t) : core.run (k + 1) s = core.run k t := by
  have hc : core.step s = .next t := h
  exact (Host.Core.run.eq_2 core s k).trans (by rw [hc])

/-! ### The state with a line's operands in its ARG registers changes nothing else -/

@[simp] theorem State.withOperands_nil (s : State) : s.withOperands [] = s := rfl
@[simp] theorem State.withOperands_cmd (s : State) (ws : List Word) : (s.withOperands ws).cmd = s.cmd := rfl
@[simp] theorem State.withOperands_res0 (s : State) (ws : List Word) : (s.withOperands ws).res0 = s.res0 := rfl
@[simp] theorem State.withOperands_res1 (s : State) (ws : List Word) : (s.withOperands ws).res1 = s.res1 := rfl
@[simp] theorem State.withOperands_res2 (s : State) (ws : List Word) : (s.withOperands ws).res2 = s.res2 := rfl
@[simp] theorem State.withOperands_status (s : State) (ws : List Word) : (s.withOperands ws).status = s.status := rfl
@[simp] theorem State.withOperands_mem (s : State) (ws : List Word) : (s.withOperands ws).mem = s.mem := rfl
@[simp] theorem State.withOperands_inputs (s : State) (ws : List Word) : (s.withOperands ws).inputs = s.inputs := rfl
@[simp] theorem State.withOperands_response (s : State) (ws : List Word) :
    (s.withOperands ws).response = s.response := rfl

end Sys2Proof.Machine
end

