-- ==== Sys2Proof/Tests/Slice0.lean ====
section
/-! SUPPORT. Tests: words written out from 30_encoding.md R82, values from 95_test_vectors.md and from the examples of
the rules, ill-formed terms that WellFormed refuses, and for every statement with hypotheses a state and
operands that meet them. -/

namespace Sys2Proof.Tests
open Sys2Proof.Machine

/-- The reset state with operands in ARG0 to ARG4 and words stored at addresses of `MEM`. -/
def sample (args : List Word) (words : List (Nat × Word) := []) : State :=
  { State.reset with
    arg0 := args.getD 0 0
    arg1 := args.getD 1 0
    arg2 := args.getD 2 0
    arg3 := args.getD 3 0
    arg4 := args.getD 4 0
    mem := words.foldl (fun m p => m.write16 p.1 p.2) [] }

/-- The state after a step that goes on. -/
def after : StepResult → Option State
  | .next t => some t
  | _ => none

theorem next_of_after {r : StepResult} (h : (after r).isSome = true) : ∃ t, r = .next t := by
  cases r with
  | next t => exact ⟨t, rfl⟩
  | fault f => cases f
  | refused q => cases h

/-- The reset state with host transactions pending. -/
def pending (inputs : List Input) : State := { State.reset with inputs := inputs }

/-! ### Decoding: RSV (8 bits) and OPC (8 bits) written out (30_encoding.md R80, R82) -/

theorem test_decode_nop : decode 0b0000000000000000 = .ok .nop := by decide
theorem test_decode_clear : decode 0b0000000000000001 = .ok .clear := by decide
theorem test_decode_rd8 : decode 0b0000000000000010 = .ok .rd8 := by decide
theorem test_decode_wr8 : decode 0b0000000000000011 = .ok .wr8 := by decide
theorem test_decode_rd16 : decode 0b0000000000000100 = .ok .rd16 := by decide
theorem test_decode_wr16 : decode 0b0000000000000101 = .ok .wr16 := by decide
theorem test_decode_encode : decode 0b0000000000010000 = .ok .encode := by decide
theorem test_decode_decode : decode 0b0000000000010001 = .ok .decode := by decide
theorem test_decode_sprSet : decode 0b0000000000100000 = .ok .sprSet := by decide
theorem test_decode_sprGet : decode 0b0000000000100001 = .ok .sprGet := by decide
theorem test_decode_sprSetRow : decode 0b0000000000100010 = .ok .sprSetRow := by decide
theorem test_decode_palSet : decode 0b0000000000101000 = .ok .palSet := by decide
theorem test_decode_palGet : decode 0b0000000000101001 = .ok .palGet := by decide
theorem test_decode_pset : decode 0b0000000000110000 = .ok .pset := by decide
theorem test_decode_fill : decode 0b0000000000110001 = .ok .fill := by decide
theorem test_decode_rect : decode 0b0000000000110010 = .ok .rect := by decide
theorem test_decode_line : decode 0b0000000000110011 = .ok .line := by decide
theorem test_decode_fbGet : decode 0b0000000000110100 = .ok .fbGet := by decide
theorem test_decode_raster : decode 0b0000000001000000 = .ok .raster := by decide

/-- V-ENC-2 to V-ENC-5. -/
theorem test_decode_illegal : decode 0x0100 = .error .reservedNonzero ∧ decode 0x007F = .error .unassignedOpcode ∧
    decode 0x0130 = .error .reservedNonzero ∧ decode 0x0041 = .error .unassignedOpcode := by decide

theorem test_decodeTableWord : decodeTableWord 16 0x0040 = some .raster ∧ decodeTableWord 16 0x0140 = none := by
  decide

theorem test_fetchWord_rd8 : (after (step (State.reset.withFetchWord 16 0x0002))).map (fun t => (t.cmd, t.inputs)) =
    some (0x0002, []) := by decide

/-! ### Well-formedness: what each check refuses -/

theorem test_wf_instr : Instr.wellFormed .raster = true := by decide
theorem test_wf_line : (Line.mk .pset [-1, 0, 0xFFFF]).wellFormed = true := by decide
theorem test_wf_count : (Line.mk .pset [3, 4]).wellFormed = false := by decide
theorem test_wf_address : (Line.mk .rd8 [0x20000]).wellFormed = false := by decide
theorem test_wf_negative_raw : (Line.mk .fill [-1]).wellFormed = false := by decide
theorem test_wf_wide_byte : (Line.mk .wr8 [0, 0x10000]).wellFormed = false := by decide
theorem test_wf_wide_index : (Line.mk .fbGet [0x10000]).wellFormed = false := by decide
theorem test_wf_low_coord : (Line.mk .pset [-32769, 0, 0]).wellFormed = false := by decide
theorem test_wf_pseudo : (Pseudo.desc 0 10 20 5 1 3).wellFormed = true := by decide
theorem test_wf_desc_slot : (Pseudo.desc 128 0 0 0 0 0).wellFormed = false := by decide
theorem test_wf_desc_x : (Pseudo.desc 0 65536 0 0 0 0).wellFormed = false := by decide
theorem test_wf_desc_index : (Pseudo.desc 0 0 0 256 0 0).wellFormed = false := by decide
theorem test_wf_desc_palette : (Pseudo.desc 0 0 0 0 16 0).wellFormed = false := by decide
theorem test_wf_desc_flags : (Pseudo.desc 0 0 0 0 0 32).wellFormed = false := by decide
theorem test_wf_desc_off : (Pseudo.descOff (-1)).wellFormed = false := by decide
theorem test_wf_sprLoad_rows : (Pseudo.sprLoad 0 [1, 2]).wellFormed = false := by decide
theorem test_wf_cls : (Pseudo.cls 0x10000).wellFormed = false := by decide
theorem test_wf_hline : (Pseudo.hline 0 0 0 (-1)).wellFormed = false := by decide
theorem test_wf_vline : (Pseudo.vline 0 (-40000) 0 0).wellFormed = false := by decide

/-! ### One step each (95_test_vectors.md, section 2) -/

/-- R102's example. -/
theorem test_nop : (after (exec .nop { sample [] with status := 0x0011 })).map (·.status) = some 0x0000 := by decide

/-- V-MEM-12. -/
theorem test_clear : (after (exec .clear (sample [1] [(0x10, 0x5A)]))).map (fun t => (t.mem.read 0x10, t.arg0)) =
    some (0x00, 1) := by decide

/-- V-MEM-3 and V-MEM-7. -/
theorem test_rd8 : (after (exec .rd8 (sample [2, 0] [(1, 0xABCD)]))).map (·.res0) = some 0x00AB := by decide
theorem test_rd8_range : (after (exec .rd8 (sample [0, 2]))).map (·.status) = some 0x0031 := by decide

/-- V-MEM-10 and V-ENC-6. -/
theorem test_wr8 : (after (exec .wr8 (sample [0xFC06, 1, 1]))).map (fun t => (descRead t.mem 0).en) =
    some true := by decide
theorem test_wr8_order : (after (exec .wr8 (sample [0, 2, 0x100]))).map (·.status) = some 0x0031 := by decide

/-- V-MEM-2 and V-MEM-5. -/
theorem test_rd16 : (after (exec .rd16 (sample [1, 0] [(1, 0xABCD)]))).map (·.res0) = some 0xABCD := by decide
theorem test_rd16_range : (after (exec .rd16 (sample [0xFFFF, 1]))).map (·.status) = some 0x0031 := by decide

/-- V-MEM-11 and V-MEM-9. -/
theorem test_wr16 : (after (exec .wr16 (sample [0xDBFF, 1, 0x1234]))).map
    (fun t => (t.mem.read 0x1DBFF, t.mem.read 0x1DC00)) = some (0x34, 0x12) := by decide
theorem test_wr16_range : (after (exec .wr16 (sample [0xFFFF, 1, 0x1234]))).map (fun t => (t.mem, t.status)) =
    some ([], 0x0031) := by decide

/-- V-COL-4 and V-COL-6. -/
theorem test_encode : (after (exec .encode (sample [255, 128, 7]))).map (·.res0) = some 0xFE00 := by decide
theorem test_encode_range : (after (exec .encode (sample [0, 0, 256]))).map (·.status) = some 0x0021 := by decide

/-- V-COL-12 and V-COL-8. -/
theorem test_decode : (after (exec .decode (sample [0xFE00]))).map (fun t => (t.res0, t.res1, t.res2)) =
    some (0x00F8, 0x0080, 0x0000) := by decide
theorem test_decode_transparent : (after (exec .decode (sample [0x7FFF]))).map
    (fun t => (t.res0, t.res1, t.res2)) = some (0x00F8, 0x00F8, 0x00F8) := by decide

/-- V-SPR-10 (second command) and V-SPR-8. -/
theorem test_sprSet : (after (exec .sprSet (sample [3, 6, 7, 5] [(0x1DC7F, 0x00F0)]))).map
    (·.mem.read 0x1DC7F) = some 0xF5 := by decide
theorem test_sprSet_range : (after (exec .sprSet (sample [0, 0, 0, 16]))).map (·.status) = some 0x0021 := by decide

/-- R141's example and V-SPR-2. -/
theorem test_sprGet : (after (exec .sprGet (sample [0, 5, 0] [(0x1DC00, 0x3210), (0x1DC02, 0x7654)]))).map
    (·.res0) = some 5 := by decide
theorem test_sprGet_odd : (after (exec .sprGet (sample [0, 1, 0] [(0x1DC00, 0x00A0)]))).map (·.res0) =
    some 0x000A := by decide

/-- V-SPR-3 and V-SPR-9. -/
theorem test_sprSetRow : (after (exec .sprSetRow (sample [0, 0, 0x3210, 0x7654]))).map (·.mem) =
    some [(0x1DC00, 0x10), (0x1DC01, 0x32), (0x1DC02, 0x54), (0x1DC03, 0x76)] := by decide
theorem test_sprSetRow_range : (after (exec .sprSetRow (sample [0, 8, 0, 0]))).map (·.status) =
    some 0x0021 := by decide

/-- V-PAL-1. -/
theorem test_palSet : (after (exec .palSet (sample [15, 15, 0x1234]))).map (·.mem) =
    some [(0x1DBFE, 0x34), (0x1DBFF, 0x12)] := by decide

/-- V-PAL-2 and V-PAL-5. -/
theorem test_palGet : (after (exec .palGet (sample [15, 15] [(0x1DBFE, 0x1234)]))).map (·.res0) =
    some 0x1234 := by decide
theorem test_palGet_range : (after (exec .palGet (sample [0, 16]))).map (·.status) = some 0x0021 := by decide

/-- V-FB-2 and V-FB-1. -/
theorem test_pset : (after (exec .pset (sample [3, 4, 0xFE00]))).map (·.mem) = some [(0x15E07, 0xFE)] := by decide
theorem test_pset_clipped : (after (exec .pset (sample [0xFFFF, 0, 0x1111]))).map (·.mem) = some [] := by decide

/-- V-FB-7. -/
theorem test_fill : (after (exec .fill (sample [0x8000]))).map (fun t => (pixel t.mem 2 0, t.mem.read 0x159FF)) =
    some (0x8000, 0x00) := by decide +kernel

/-- V-FB-11 and V-FB-9. -/
theorem test_rect : (after (exec .rect (sample [0xFFFE, 0xFFFF, 4, 3, 0x80FF]))).map (·.mem) =
    some [(0x15A00, 0xFF), (0x15A01, 0x80), (0x15A02, 0xFF), (0x15A03, 0x80), (0x15B00, 0xFF), (0x15B01, 0x80),
      (0x15B02, 0xFF), (0x15B03, 0x80)] := by decide
theorem test_rect_empty : (after (exec .rect (sample [5, 5, 3, 0xFFFF, 0xFFFF]))).map (·.mem) = some [] := by decide

/-- V-LN-1, V-LN-2, V-LN-4, V-LN-11, V-LN-14, V-LN-15: the pixels visited, in order. -/
theorem test_line_octants : linePixels 0 0 5 2 = [(0, 0), (1, 0), (2, 1), (3, 1), (4, 2), (5, 2)] ∧
    linePixels 0 0 2 5 = [(0, 0), (0, 1), (1, 2), (1, 3), (2, 4), (2, 5)] ∧
    linePixels (-2) (-1) 2 1 = [(-2, -1), (-1, 0), (0, 0), (1, 1), (2, 1)] ∧
    linePixels 4 1 0 0 = [(4, 1), (3, 1), (2, 0), (1, 0), (0, 0)] ∧
    linePixels 2 0 0 5 = [(2, 0), (2, 1), (1, 2), (1, 3), (0, 4), (0, 5)] ∧
    linePixels 125 1 130 3 = [(125, 1), (126, 1), (127, 2), (128, 2), (129, 3), (130, 3)] ∧
    linePixels 0 5 0 0 = [(0, 0), (0, 1), (0, 2), (0, 3), (0, 4), (0, 5)] := by decide

/-- V-LN-15, painted: the pixels past column 127 are clipped. -/
theorem test_line : (after (exec .line (sample [125, 1, 130, 3, 0x00FC]))).map (·.mem) =
    some [(0x15BFA, 0xFC), (0x15BFC, 0xFC), (0x15CFE, 0xFC)] := by decide

/-- V-FB-4 and V-FB-5. -/
theorem test_fbGet : (after (exec .fbGet (sample [16383] [(0x1D9FE, 0xBEEF)]))).map (·.res0) = some 0xBEEF := by
  decide
theorem test_fbGet_range : (after (exec .fbGet (sample [16384]))).map (·.status) = some 0x0021 := by decide

/-- V-RAS-2 with V-RAS-5's slot order: tiles 0xFF, 0x00 (wrapped), 0x0F, 0x10; slot 1 paints over (0,0). -/
theorem test_raster_tiles : (after (exec .raster (sample [] [(0x1DA02, 0x8001), (0x1DA04, 0x8002), (0x1DA06, 0x8003),
      (0x1DA08, 0x8004), (0x1DA22, 0xFC00), (0x1FBE0, 1), (0x1DC00, 2), (0x1DDE0, 3), (0x1DE00, 4),
      (0x1FC04, 0x00FF), (0x1FC06, 0x0009), (0x1FC0C, 0x01FF), (0x1FC0E, 0x0001)]))).map
    (fun t => (pixel t.mem 0 0, pixel t.mem 8 0, pixel t.mem 0 8, pixel t.mem 8 8)) =
    some (0xFC00, 0x8002, 0x8003, 0x8004) := by decide +kernel

/-- V-RAS-1's flip with V-RAS-6's clipping on the right: X 121, so column 7 of the bitmap's row lands at 121. -/
theorem test_raster_flip : (after (exec .raster (sample [] [(0x1DA22, 0xFFFF), (0x1DA24, 0xFC00), (0x1DCA0, 0x0021),
      (0x1FC00, 121), (0x1FC02, 20), (0x1FC04, 0x0105), (0x1FC06, 0x0003)]))).map
    (fun t => (pixel t.mem 127 20, pixel t.mem 121 20)) = some (0xFC00, 0x0000) := by decide +kernel

/-! ### The host port (V-REG-1, V-REG-2, V-ENC-4) -/

theorem test_hostRead_width : (after (step (pending [.read 0xA]))).bind (·.response) = some 0x0080 := by decide
theorem test_hostWrite_status : (after (step (pending [.write 0x9 0x1234]))).map (·.status) = some 0x0000 := by decide
theorem test_illegal_word : (after (step (pending [.write 0x0 0x0130]))).map (fun t => (t.cmd, t.status, t.mem)) =
    some (0x0130, 0x0011, []) := by decide
theorem test_reset_input : (after (step { sample [7] with inputs := [.reset, .read 0x1] })).map
    (fun t => (t.arg0, t.inputs)) = some (0x0000, [.read 0x1]) := by decide

/-! ### The assembler (program P3, lines 2 and 3; program P2, lines 6 to 9) -/

theorem test_assemble_rect : assembleText ["RECT -2, -1, 4, 3, 0xFFFF ; clipped"] =
    some [.write 1 0xFFFE, .write 2 0xFFFF, .write 3 4, .write 4 3, .write 5 0xFFFF, .write 0 0x0032] := by decide
theorem test_assemble_desc : assembleText ["DESC 0, 10, 20, 5, 1, 3"] =
    assembleText ["WR16 0x1FC00, 10", "WR16 0x1FC02, 20", "WR16 0x1FC04, 0x0105", "", "WR16 0x1FC06, 0x0003"] := by
  decide
theorem test_assemble_refuses : parseLine "NOPE" = none ∧ parseLine "FILL" = none ∧ parseLine "RD8 0x20000" = none ∧
    parseLine "CLEAR ; zero" = some [⟨.clear, []⟩] ∧ parseLine "; only a comment" = some [] := by decide

/-! ### Witnesses: states and operands that meet the hypotheses of each statement, at boundary values -/

theorem witness_OtherWordsAreIllegal :
    (0x0041 : Word) ∉ ([0x0000, 0x0001, 0x0002, 0x0003, 0x0004, 0x0005, 0x0010, 0x0011, 0x0020, 0x0021, 0x0022, 0x0028,
      0x0029, 0x0030, 0x0031, 0x0032, 0x0033, 0x0034, 0x0040] : List Word) ∧
    (pending [.write 0x0 0x0041]).inputs = .write 0x0 0x0041 :: [] := by decide

theorem witness_StepRunsDecodedCommand :
    (pending [.write 0x0 0x0040]).inputs = .write 0x0 0x0040 :: [] ∧ decode 0x0040 = .ok .raster := by decide

theorem witness_Rd8ReadsOneByte :
    operandAddress (sample [0xFFFF, 1]) + 1 ≤ 131072 ∧ 131072 < operandAddress (sample [0, 2]) + 1 := by decide

theorem witness_Wr8WritesOneByte :
    (operandAddress (sample [0xFFFF, 1, 255]) + 1 ≤ 131072 ∧ (sample [0xFFFF, 1, 255]).arg2.toNat ≤ 255) ∧
    (operandAddress (sample [0xFFFF, 1, 256]) + 1 ≤ 131072 ∧ 255 < (sample [0xFFFF, 1, 256]).arg2.toNat) ∧
    131072 < operandAddress (sample [0, 2, 256]) + 1 := by decide

theorem witness_Rd16ReadsLittleEndian :
    operandAddress (sample [0xFFFE, 1]) + 2 ≤ 131072 ∧ 131072 < operandAddress (sample [0xFFFF, 1]) + 2 := by decide

theorem witness_Wr16WritesLittleEndian :
    operandAddress (sample [0xFFFE, 1, 0xABCD]) + 2 ≤ 131072 ∧
    131072 < operandAddress (sample [0xFFFF, 1, 0xABCD]) + 2 ∧
    (operandAddress (sample [0xD9FE, 1, 0xABCD]) + 2 ≤ 131072 ∧ 127 < 128 ∧
      operandAddress (sample [0xD9FE, 1, 0xABCD]) = 0x15A00 + 2 * (127 + 128 * 127)) := by decide

theorem witness_MemoryCommandsCheckRange :
    ((.rd16, 2) ∈ ([(.rd8, 1), (.wr8, 1), (.rd16, 2), (.wr16, 2)] : List (Instr × Nat))) ∧
    131072 < operandAddress (sample [0xFFFF, 1]) + 2 ∧ operandAddress (sample [0xFFFE, 1]) + 2 ≤ 131072 := by decide

theorem witness_MixedWidthsSeeSameBytes :
    operandAddress (sample [0xFFFE, 1, 0xABCD]) + 2 ≤ 131072 ∧
    (∃ t, exec .wr16 (sample [0xFFFE, 1, 0xABCD]) = .next t) ∧
    (1 : Word).toNat * 65536 + (0xFFFF : Word).toNat = operandAddress (sample [0xFFFE, 1, 0xABCD]) + 1 :=
  ⟨by decide, next_of_after (by decide), by decide⟩

theorem witness_RewriteOfSameByteChangesNothing :
    (sample [0x10, 0, 0x5A] [(0x10, 0x005A)]).Inv ∧ operandAddress (sample [0x10, 0, 0x5A] [(0x10, 0x005A)]) + 1 ≤ 131072 ∧
    (sample [0x10, 0, 0x5A] [(0x10, 0x005A)]).arg2.toNat ≤ 255 ∧
    (sample [0x10, 0, 0x5A] [(0x10, 0x005A)]).mem.read (operandAddress (sample [0x10, 0, 0x5A] [(0x10, 0x005A)])) =
      (sample [0x10, 0, 0x5A] [(0x10, 0x005A)]).arg2.extractLsb' 0 8 :=
  ⟨⟨by decide, by decide⟩, by decide, by decide, by decide⟩

theorem witness_EncodePacksChannels :
    ((sample [255, 255, 255]).arg0.toNat ≤ 255 ∧ (sample [255, 255, 255]).arg1.toNat ≤ 255 ∧
      (sample [255, 255, 255]).arg2.toNat ≤ 255) ∧
    255 < (sample [256, 0, 0]).arg0.toNat ∧ 255 < (sample [0, 256, 0]).arg1.toNat ∧
    255 < (sample [0, 0, 256]).arg2.toNat := by decide

theorem witness_ColorRoundTrips :
    (sample [255, 0, 255]).arg0.toNat ≤ 255 ∧ (sample [255, 0, 255]).arg1.toNat ≤ 255 ∧
    (sample [255, 0, 255]).arg2.toNat ≤ 255 := by decide

theorem witness_NamedColors :
    (sample [0x8000]).arg0 = blackColor ∧ (sample [0xFFFF]).arg0 = whiteColor ∧ (sample []).arg0 = 0 ∧
      (sample []).arg1 = 0 ∧ (sample []).arg2 = 0 ∧ (sample [255, 255, 255]).arg0 = 255 ∧
      (sample [255, 255, 255]).arg1 = 255 ∧ (sample [255, 255, 255]).arg2 = 255 := by decide

theorem witness_SprSetChangesOneNibble :
    ((sample [255, 7, 7, 15]).arg0.toNat < 256 ∧ (sample [255, 7, 7, 15]).arg1.toNat < 8 ∧
      (sample [255, 7, 7, 15]).arg2.toNat < 8 ∧ (sample [255, 7, 7, 15]).arg3.toNat < 16) ∧
    256 ≤ (sample [256, 0, 0, 0]).arg0.toNat ∧ 8 ≤ (sample [0, 8, 0, 0]).arg1.toNat ∧
    8 ≤ (sample [0, 0, 8, 0]).arg2.toNat ∧ 16 ≤ (sample [0, 0, 0, 16]).arg3.toNat := by decide

theorem witness_SprGetReadsOneNibble :
    ((sample [255, 7, 7, 15]).arg0.toNat < 256 ∧ (sample [255, 7, 7, 15]).arg1.toNat < 8 ∧
      (sample [255, 7, 7, 15]).arg2.toNat < 8 ∧ (sample [255, 7, 7, 15]).arg3.toNat < 16) ∧
    (∃ t, exec .sprSet (sample [255, 7, 7, 15]) = .next t) ∧
    256 ≤ (sample [256, 0, 0]).arg0.toNat ∧ 8 ≤ (sample [0, 8, 0]).arg1.toNat ∧ 8 ≤ (sample [0, 0, 8]).arg2.toNat :=
  ⟨by decide, ⟨_, rfl⟩, by decide, by decide, by decide⟩

theorem witness_SprSetRowWritesFourBytes :
    ((sample [255, 7, 1, 2]).arg0.toNat < 256 ∧ (sample [255, 7, 1, 2]).arg1.toNat < 8) ∧
    256 ≤ (sample [256, 0]).arg0.toNat ∧ 8 ≤ (sample [0, 8]).arg1.toNat := by decide

theorem witness_PalSetWritesOneEntry :
    ((sample [15, 15, 0x1234]).arg0.toNat < 16 ∧ (sample [15, 15, 0x1234]).arg1.toNat < 16) ∧
    16 ≤ (sample [16, 0]).arg0.toNat ∧ 16 ≤ (sample [0, 16]).arg1.toNat := by decide

theorem witness_PalGetReadsOneEntry :
    ((sample [15, 15, 0x1234]).arg0.toNat < 16 ∧ (sample [15, 15, 0x1234]).arg1.toNat < 16) ∧
    (∃ t, exec .palSet (sample [15, 15, 0x1234]) = .next t) ∧
    16 ≤ (sample [16, 0]).arg0.toNat ∧ 16 ≤ (sample [0, 16]).arg1.toNat :=
  ⟨by decide, ⟨_, rfl⟩, by decide, by decide⟩

theorem witness_PsetWritesOneClippedPixel :
    (0 ≤ (sample [127, 127]).arg0.toInt ∧ (sample [127, 127]).arg0.toInt < 128 ∧ 0 ≤ (sample [127, 127]).arg1.toInt ∧
      (sample [127, 127]).arg1.toInt < 128) ∧
    ¬(0 ≤ (sample [0xFFFF, 1]).arg0.toInt ∧ (sample [0xFFFF, 1]).arg0.toInt < 128 ∧
      0 ≤ (sample [0xFFFF, 1]).arg1.toInt ∧ (sample [0xFFFF, 1]).arg1.toInt < 128) ∧
    ¬(0 ≤ (sample [0, 128]).arg0.toInt ∧ (sample [0, 128]).arg0.toInt < 128 ∧
      0 ≤ (sample [0, 128]).arg1.toInt ∧ (sample [0, 128]).arg1.toInt < 128) := by decide

theorem witness_RectPaintsItsPixels :
    (sample [0, 0, 128, 128, 0x8000]).arg0.toInt = 0 ∧ (sample [0, 0, 128, 128, 0x8000]).arg1.toInt = 0 ∧
    (sample [0, 0, 128, 128, 0x8000]).arg2.toInt = 128 ∧ (sample [0, 0, 128, 128, 0x8000]).arg3.toInt = 128 ∧
    127 < 128 := by decide

theorem witness_FillAndRectEqualTheirPlots :
    Memory.wf [(0x15A00, 0x01), (0x1FFFF, 0xFF)] = true := by decide

theorem witness_LineFollowsBresenhamLoop : (-32768 : Int) ≠ 32767 ∧ (0 : Int) ≠ 1 := by decide

theorem witness_LineVisitsDistinctKingMoves :
    ((-32768 : Int) ≠ 32767 ∧ (3 : Int) ≠ -3) ∧ (7 : Int) = 7 ∧ ((7 : Int) = 7 ∧ (3 : Int) ≠ -3) := by decide

theorem witness_FbGetReadsLinearIndex :
    (sample [16383]).arg0.toNat < 16384 ∧ 16384 ≤ (sample [16384]).arg0.toNat := by decide

theorem witness_FbGetAfterPset :
    (127 < 128 ∧ (sample [127, 127, 0xBEEF]).arg0.toInt = (127 : Nat) ∧
      (sample [127, 127, 0xBEEF]).arg1.toInt = (127 : Nat)) ∧
    (∃ t, exec .pset (sample [127, 127, 0xBEEF]) = .next t) ∧ (16383 : Word).toNat = 127 + 128 * 127 :=
  ⟨by decide, ⟨_, rfl⟩, by decide⟩

/-- A descriptor with every field but EN set. -/
theorem witness_RasterSkipsDisabledSlots :
    ∀ n, n < 128 → (descRead (sample [] [(0x1FC10, 0x0028), (0x1FC16, 0x001E)]).mem n).en = false := by
  decide +kernel

/-- A palette entry that is not 0x0000 and yet transparent (V-RAS-4). -/
theorem witness_RasterPaintsNoTransparentColor :
    ∀ p, p < 16 → ∀ e, e < 16 → (palColor (sample [] [(0x1DA02, 0x7FFF), (0x1FC06, 1)]).mem p e).getLsbD 15 = false := by
  decide +kernel

/-- One sprite at (120, 0), its square touching the right edge of the screen, with and without FLIPX. -/
theorem witness_RasterFlipXMirrors :
    let s := sample [] [(0x1DA02, 0xFFFF), (0x1DC00, 0x0001), (0x1FC08, 120), (0x1FC0E, 0x0001)]
    let s' := sample [] [(0x1DA02, 0xFFFF), (0x1DC00, 0x0001), (0x1FC08, 120), (0x1FC0E, 0x0003)]
    1 < 128 ∧
    (∀ k, k < 128 → k ≠ 1 → (descRead s.mem k).en = false ∧ (descRead s'.mem k).en = false) ∧
    descRead s'.mem 1 = { descRead s.mem 1 with flipX := !(descRead s.mem 1).flipX } ∧
    (∀ a, 0x1DA00 ≤ a → a < 0x1FC00 → s'.mem.read a = s.mem.read a) ∧
    (0 ≤ (descRead s.mem 1).x ∧ (descRead s.mem 1).x + 8 * (descRead s.mem 1).tiles ≤ 128 ∧
      0 ≤ (descRead s.mem 1).y ∧ (descRead s.mem 1).y + 8 * (descRead s.mem 1).tiles ≤ 128) ∧
    (∀ x y, x < 128 → y < 128 → pixel s.mem x y = 0x0000 ∧ pixel s'.mem x y = 0x0000) ∧
    (∃ t, exec .raster s = .next t) ∧ (∃ t', exec .raster s' = .next t') := by
  intro s s'
  have hs : s.mem = [(0x1DA02, 0xFF), (0x1DA03, 0xFF), (0x1DC00, 0x01), (0x1FC08, 0x78), (0x1FC0E, 0x01)] := by
    decide +kernel
  have hs' : s'.mem = [(0x1DA02, 0xFF), (0x1DA03, 0xFF), (0x1DC00, 0x01), (0x1FC08, 0x78), (0x1FC0E, 0x03)] := by
    decide +kernel
  refine ⟨by decide, by decide +kernel, by decide +kernel, ?_, by decide +kernel, ?_, ⟨_, rfl⟩, ⟨_, rfl⟩⟩
  · intro a _ h
    rw [hs, hs']
    simp only [Memory.read_cons, Memory.read_nil]
    rw [if_neg (show ¬ 0x1FC0E = a by omega), if_neg (show ¬ 0x1FC0E = a by omega)]
  · intro x y hx hy
    have hr := fbAddr_range hx hy
    have h (m : Memory) (h0 : ∀ a, a < 0x1DA00 → m.read a = 0x00) : pixel m x y = 0x0000 := by
      unfold pixel Memory.read16
      rw [h0 _ (by omega), h0 _ (by omega)]
      rfl
    rw [hs, hs']
    constructor <;> apply h <;> intro a ha <;> simp only [Memory.read_cons, Memory.read_nil] <;>
      (repeat rw [if_neg (by omega)])

theorem witness_HostReadAnswersRegister : (pending [.read 0xF]).inputs = .read 0xF :: [] := by decide

theorem witness_ArgRegistersKeepHostValue :
    (pending [.write 0x1 0xFFFF]).inputs = .write 0x1 0xFFFF :: [] ∧
    (pending [.write 0x2 0xFFFF]).inputs = .write 0x2 0xFFFF :: [] ∧
    (pending [.write 0x3 0xFFFF]).inputs = .write 0x3 0xFFFF :: [] ∧
    (pending [.write 0x4 0xFFFF]).inputs = .write 0x4 0xFFFF :: [] ∧
    (pending [.write 0x5 0xFFFF]).inputs = .write 0x5 0xFFFF :: [] ∧ (∃ t, exec .raster State.reset = .next t) ∧
    ((∃ t, step (pending [.write 0x6 0xBEEF]) = .next t) ∧
      (∀ n v rest, (pending [.write 0x6 0xBEEF]).inputs = .write n v :: rest → n = 0x0 ∨ 6 ≤ n.toNat) ∧
      (∀ rest, (pending [.write 0x6 0xBEEF]).inputs ≠ .reset :: rest)) := by
  refine ⟨rfl, rfl, rfl, rfl, rfl, ⟨_, rfl⟩, next_of_after (by decide), ?_, by simp [pending]⟩
  intro n v rest h
  injection h with h _
  injection h with h _
  subst h
  exact .inr (by decide)

theorem witness_WritesToReadOnlyIgnored :
    6 ≤ (0x6 : BitVec 4).toNat ∧ (pending [.write 0x6 0xBEEF]).inputs = .write 0x6 0xBEEF :: [] ∧
    6 ≤ (0xF : BitVec 4).toNat ∧ (pending [.write 0xF 0xBEEF]).inputs = .write 0xF 0xBEEF :: [] := by decide

theorem witness_OnlyProducersWriteResults :
    ((∃ t, exec .palSet (sample [16, 0, 0]) = .next t ∧ t.status ≠ 0x0000) ∧
      Instr.palSet ∉ ([.rd8, .rd16, .encode, .decode, .sprGet, .palGet, .fbGet] : List Instr) ∧
      Instr.palSet ≠ .decode) ∧
    ((∃ t, step (pending [.write 0x6 0xBEEF]) = .next t) ∧
      (∀ w rest, (pending [.write 0x6 0xBEEF]).inputs ≠ .write 0x0 w :: rest) ∧
      (∀ rest, (pending [.write 0x6 0xBEEF]).inputs ≠ .reset :: rest)) :=
  ⟨⟨⟨_, rfl, by decide⟩, by decide, by decide⟩, next_of_after (by decide), by simp [pending], by simp [pending]⟩

theorem witness_CommandReadsOnlyArgsAndMemory :
    (sample [1, 2]).args = { sample [1, 2] with cmd := 7, res0 := 9, status := 0x0021 }.args ∧
    (sample [1, 2]).mem = { sample [1, 2] with cmd := 7, res0 := 9, status := 0x0021 }.mem := by decide

theorem witness_PaintersStayInFramebuffer :
    Instr.raster ∈ ([.pset, .fill, .rect, .line, .raster] : List Instr) := by decide

/-- Two states that differ only in the last byte of the general region. -/
theorem witness_GeneralRegionNeedsMemoryCommand :
    let s := sample [5]
    let s' := sample [5] [(0x159FF, 0x0001)]
    Instr.fbGet ∉ ([.wr8, .wr16, .clear] : List Instr) ∧
    Instr.fbGet ∉ ([.rd8, .wr8, .rd16, .wr16, .clear] : List Instr) ∧ s'.args = s.args ∧ SameResults s s' ∧
    (∀ a, ¬ inZone .general a → s'.mem.read a = s.mem.read a) ∧
    (∃ t, exec .fbGet s = .next t) ∧ (∃ t', exec .fbGet s' = .next t') ∧ inZone .general 0x159FF := by
  intro s s'
  refine ⟨by decide, by decide, rfl, ⟨rfl, rfl, rfl⟩, ?_, ⟨_, rfl⟩, ⟨_, rfl⟩, by unfold inZone; decide⟩
  intro a ha
  have hs' : s'.mem = [(0x159FF, 0x01)] := by decide
  have hne : ¬ 0x159FF = a := by rintro rfl; exact ha (by unfold inZone; decide)
  rw [hs', Memory.read_cons, if_neg hne]
  rfl

theorem witness_ErrorsArePrecise :
    (pending [.write 0x0 0x007F]).inputs = .write 0x0 0x007F :: [] ∧
    ∃ t, step (pending [.write 0x0 0x007F]) = .next t ∧ t.status ≠ 0x0000 := ⟨rfl, _, rfl, by decide⟩

theorem witness_IdleKeepsState : State.reset.inputs = [] := rfl

theorem witness_ResetInputZeroesAll : (pending [.reset, .read 0x0]).inputs = .reset :: [.read 0x0] := rfl

theorem witness_ClearIsResetOfMemoryOnly :
    (pending [.write 0x0 0x0001]).inputs = .write 0x0 0x0001 :: [] := rfl

theorem witness_StepKeepsCanonicalState :
    (pending [.write 0x0 0x0005]).Inv ∧ ∃ t, step (pending [.write 0x0 0x0005]) = .next t :=
  ⟨⟨rfl, by decide⟩, next_of_after (by decide)⟩

theorem witness_AssembledLinesRunTheirCommand :
    (Line.mk .wr16 [131071, 65535]).wellFormed = true ∧ (Line.mk .line [-32768, 65535, 0, 0, 65535]).wellFormed = true ∧
    131071 < 131072 ∧ 65535 < 65536 := by decide

theorem witness_DescPseudoWritesDescriptor :
    127 < 128 ∧ 255 < 256 ∧ 15 < 16 ∧ 31 < 32 ∧ (-32768 : Int) ≤ -32768 ∧ (-32768 : Int) < 32768 ∧
    (-32768 : Int) ≤ 32767 ∧ (32767 : Int) < 32768 := by decide

end Sys2Proof.Tests
end

/-! SUPPORT. What a command computes, and everything a command can do to the state. -/

namespace Sys2Proof.Machine

/-- What a command with legal operands does beside setting STATUS: it stores `MEM`, or it answers in RES0, or in
all three RES registers (00_scope.md R10). No other register can be written. -/
inductive CommandEffect
  | store (m : Memory)
  | answer (w : Word)
  | answer3 (w0 w1 w2 : Word)

namespace CommandEffect

/-- The state after the effect. -/
def apply (s : State) : CommandEffect → State
  | store m => s.setMem m
  | answer w => s.setRes0 w
  | answer3 w0 w1 w2 => ((s.setRes0 w0).setRes1 w1).setRes2 w2

variable (s : State)

@[simp] theorem apply_store (m : Memory) : (store m).apply s = s.setMem m := rfl
@[simp] theorem apply_answer (w : Word) : (answer w).apply s = s.setRes0 w := rfl
@[simp] theorem apply_answer3 (w0 w1 w2 : Word) :
    (answer3 w0 w1 w2).apply s = ((s.setRes0 w0).setRes1 w1).setRes2 w2 := rfl

end CommandEffect

/-- The effect of each command, computed from the ARG registers and `MEM` (10_state.md R35). -/
def commandEffect (i : Instr) (s : State) : CommandEffect :=
  match i with
  | .nop => .store s.mem
  | .clear => .store Memory.cleared
  | .rd8 => .answer (zextByte (s.mem.read s.address))
  | .wr8 => .store (s.mem.write s.address (loByte s.arg2))
  | .rd16 => .answer (s.mem.read16 s.address)
  | .wr16 => .store (s.mem.write16 s.address s.arg2)
  | .encode => .answer (packColor s.arg0 s.arg1 s.arg2)
  | .decode => .answer3 (unpackChannel s.arg0 10) (unpackChannel s.arg0 5) (unpackChannel s.arg0 0)
  | .sprSet => .store (bmpSet s.arg0.toNat s.arg1.toNat s.arg2.toNat (s.arg3.extractLsb' 0 4) s.mem)
  | .sprGet => .answer ((bmpGet s.mem s.arg0.toNat s.arg1.toNat s.arg2.toNat).setWidth 16)
  | .sprSetRow => .store (bmpSetRow s.arg0.toNat s.arg1.toNat s.arg2 s.arg3 s.mem)
  | .palSet => .store (s.mem.write16 (palAddr s.arg0.toNat s.arg1.toNat) s.arg2)
  | .palGet => .answer (palColor s.mem s.arg0.toNat s.arg1.toNat)
  | .pset => .store (plot (coordOperand s.arg0) (coordOperand s.arg1) s.arg2 s.mem)
  | .fill => .store (paintFill s.arg0 s.mem)
  | .rect => .store (paintRect (coordOperand s.arg0) (coordOperand s.arg1) (coordOperand s.arg2)
      (coordOperand s.arg3) s.arg4 s.mem)
  | .line => .store (plotAll (linePixels (coordOperand s.arg0) (coordOperand s.arg1) (coordOperand s.arg2)
      (coordOperand s.arg3)) s.arg4 s.mem)
  | .fbGet => .answer (s.mem.read16 (Config.fbBase + 2 * s.arg0.toNat))
  | .raster => .store (paintRaster s.mem)

/-- The meaning of every command is the template of 00_scope.md R11 around its `commandEffect`. -/
theorem exec_eq_runChecked (i : Instr) (s : State) :
    exec i s = runChecked i (fun u => (commandEffect i u).apply u) s := by
  cases i <;> rfl

theorem exec_of_legal {i : Instr} {s : State} (h : firstBadOperand i.operands s.args = none) :
    exec i s = .next (((commandEffect i s).apply s).setStatus 0x0000) :=
  (exec_eq_runChecked i s).trans (runChecked_legal h)

theorem exec_of_bad {i : Instr} {s : State} {b : BadOperand} (h : firstBadOperand i.operands s.args = some b) :
    exec i s = .next (s.setStatus (errorStatus (errorOfBadOperand b))) :=
  (exec_eq_runChecked i s).trans (runChecked_bad h)

/-- Everything a command can do: its effect and STATUS 0x0000 when every operand is legal, else STATUS alone. -/
theorem exec_next_cases {i : Instr} {s t : State} (h : exec i s = .next t) :
    (firstBadOperand i.operands s.args = none ∧ t = ((commandEffect i s).apply s).setStatus 0x0000) ∨
    (∃ e, t = s.setStatus (errorStatus e)) := by
  rcases hb : firstBadOperand i.operands s.args with _ | b
  · rw [exec_of_legal hb] at h
    cases h
    exact .inl ⟨rfl, rfl⟩
  · rw [exec_of_bad hb] at h
    cases h
    exact .inr ⟨_, rfl⟩

/-! ### What the effects leave unchanged, and what they depend on -/

theorem CommandEffect.apply_sameOperands (e : CommandEffect) (s : State) : SameOperands s (e.apply s) := by
  cases e <;> constructor <;> rfl

/-- A command whose effect writes no RES register: all but the seven producers (10_state.md R26). -/
theorem commandEffect_store_of_not_producer {i : Instr} (s : State)
    (h : i ∉ ([.rd8, .rd16, .encode, .decode, .sprGet, .palGet, .fbGet] : List Instr)) :
    ∃ m, commandEffect i s = .store m := by
  cases i
  case rd8 | rd16 | encode | decode | sprGet | palGet | fbGet => simp at h
  all_goals exact ⟨_, rfl⟩

/-- DECODE alone answers in three registers (10_state.md R26). -/
theorem commandEffect_ne_answer3 {i : Instr} (s : State) (h : i ≠ .decode) (w0 w1 w2 : Word) :
    commandEffect i s ≠ .answer3 w0 w1 w2 := by
  cases i
  case decode => exact absurd rfl h
  all_goals exact CommandEffect.noConfusion

theorem State.args_eq_iff {s s' : State} :
    s.args = s'.args ↔ s.arg0 = s'.arg0 ∧ s.arg1 = s'.arg1 ∧ s.arg2 = s'.arg2 ∧ s.arg3 = s'.arg3 ∧
      s.arg4 = s'.arg4 := by
  simp [State.args]

/-- The effect of a command is a function of the ARG registers and `MEM` (10_state.md R35). -/
theorem commandEffect_congr (i : Instr) {s s' : State} (ha : s.args = s'.args) (hm : s.mem = s'.mem) :
    commandEffect i s = commandEffect i s' := by
  obtain ⟨h0, h1, h2, h3, h4⟩ := State.args_eq_iff.1 ha
  have haddr : s.address = s'.address := by rw [State.address, State.address, h0, h1]
  cases i <;> simp only [commandEffect, haddr, h0, h1, h2, h3, h4, hm]

end Sys2Proof.Machine

/-! SUPPORT. One equation of `step` per kind of transaction, and the register numbers (10_state.md R23, R32). -/

namespace Sys2Proof.Machine

variable {s : State} {n : BitVec 4} {v : Word} {rest : List Input}

theorem step_of_read (h : s.inputs = .read n :: rest) :
    step s = .next (s.setPort rest (some (s.readReg (regOfNumber n)))) := by
  simp only [step, serve, h, hostRead]

theorem step_of_cmdWrite (h : s.inputs = .write 0x0 v :: rest) : step s = startCommand v (s.setPort rest none) := by
  simp only [step, serve, h]
  rfl

theorem step_of_registerWrite (h : s.inputs = .write n v :: rest) (hr : regOfNumber n ≠ .cmd) :
    step s = .next ((s.setPort rest none).writeReg (regOfNumber n) v) := by
  simp only [step, serve, h, hostWrite]

theorem startCommand_of_decode {i : Instr} (h : decode v = .ok i) : startCommand v s = exec i (s.setCmd v) := by
  simp only [startCommand, h]

theorem regOfNumber_eq_cmd_iff : ∀ n : BitVec 4, regOfNumber n = .cmd ↔ n = 0x0 := by decide

theorem regOfNumber_of_readOnly : ∀ n : BitVec 4, 6 ≤ n.toNat →
    regOfNumber n ∈ ([.res0, .res1, .res2, .status, .width, .height, .reserved] : List Reg) := by decide

/-- A write to a register number from 6 on stores nothing (10_state.md R31). -/
theorem writeReg_readOnly (s : State) (v : Word) (h : 6 ≤ n.toNat) : s.writeReg (regOfNumber n) v = s := by
  have hr := regOfNumber_of_readOnly n h
  revert hr
  cases regOfNumber n
  case cmd | arg0 | arg1 | arg2 | arg3 | arg4 => simp
  all_goals exact fun _ => rfl

theorem regOfNumber_ne_cmd_of_readOnly (h : 6 ≤ n.toNat) : regOfNumber n ≠ .cmd := by
  rw [Ne, regOfNumber_eq_cmd_iff]
  rintro rfl
  exact absurd h (by decide)

/-- The register map of 10_state.md R23 as the table of what each number reads. -/
theorem readReg_regOfNumber (s : State) (n : BitVec 4) :
    s.readReg (regOfNumber n) =
      [s.cmd, s.arg0, s.arg1, s.arg2, s.arg3, s.arg4, s.res0, s.res1, s.res2, s.status &&& 0x00F1, 0x0080, 0x0080,
        0x0000, 0x0000, 0x0000, 0x0000].getD n.toNat 0x0000 := by
  obtain ⟨k⟩ := n
  fin_cases k <;> rfl

end Sys2Proof.Machine

/-! SUPPORT. Every memory operation of a command keeps the canonical form of `MEM` (20_memory.md R50). -/

namespace Sys2Proof.Machine

variable {m : Memory}

@[simp] theorem Memory.writeWords_nil (m : Memory) (a : Nat) : m.writeWords a [] = m := rfl

/-- A loop keeps `MEM` canonical when each pass does. -/
theorem loop_wf {n : Nat} {body : Nat → Memory → Memory} (hm : m.wf = true)
    (hbody : ∀ i m, i < n → m.wf = true → (body i m).wf = true) : (loop n body m).wf = true :=
  loop_induction (P := fun m => m.wf = true) hm hbody

theorem paintFill_wf {c : Word} (hm : m.wf = true) : (paintFill c m).wf = true :=
  Memory.writeWords_wf hm (by rw [List.length_replicate]; decide)

/-- The part of a span that clipping keeps is empty or lies on the screen (20_memory.md R62). -/
theorem clipSpan_empty_or_le (v n : Int) (size : Nat) :
    (clipSpan v n size).2 = 0 ∨ (clipSpan v n size).1 + (clipSpan v n size).2 ≤ size := by
  simp only [clipSpan]
  omega

theorem paintRect_wf {x y w h : Int} {c : Word} (hm : m.wf = true) : (paintRect x y w h c m).wf = true := by
  refine loop_wf hm fun j m hj hm => ?_
  have hrows := clipSpan_empty_or_le y h Config.fbH
  rcases clipSpan_empty_or_le x w Config.fbW with hempty | hcols
  · simpa [hempty] using hm
  · refine Memory.writeWords_wf hm ?_
    simp only [fbAddr_eq, List.length_replicate, Config.memSize, Config.fbW, Config.fbH] at hj hrows hcols ⊢
    omega

theorem plotAll_wf {ps : List (Int × Int)} {c : Word} (hm : m.wf = true) : (plotAll ps c m).wf = true := by
  induction ps generalizing m with
  | nil => exact hm
  | cons p ps ih => exact ih (plot_wf hm)

theorem rasterPixel_wf {src : Memory} {d : Descriptor} {tx ty x y : Nat} (hm : m.wf = true) :
    (rasterPixel src d tx ty x y m).wf = true := by
  simp only [rasterPixel]
  split
  · exact plot_wf hm
  · exact hm

theorem rasterDescriptor_wf {src : Memory} {d : Descriptor} (hm : m.wf = true) :
    (rasterDescriptor src d m).wf = true := by
  unfold rasterDescriptor
  split
  · exact loop_wf hm fun _ _ _ hm => loop_wf hm fun _ _ _ hm =>
      loop_wf hm fun _ _ _ hm => loop_wf hm fun _ _ _ hm => rasterPixel_wf hm
  · exact hm

theorem paintRaster_wf (hm : m.wf = true) : (paintRaster m).wf = true := by
  unfold paintRaster
  exact loop_wf hm fun _ _ _ hm => rasterDescriptor_wf hm

theorem bmpSetRow_wf {s y : Nat} {lo hi : Word} (hm : m.wf = true) (hs : s < 256) (hy : y < 8) :
    (bmpSetRow s y lo hi m).wf = true := by
  refine Memory.writeWords_wf hm ?_
  simp only [bmpRowAddr, List.length_cons, List.length_nil, Config.bmpBase, Config.bmpBytes, Config.memSize]
  omega

theorem palSet_wf {p e : Nat} {c : Word} (hm : m.wf = true) (hp : p < 16) (he : e < 16) :
    (m.write16 (palAddr p e) c).wf = true := by
  have := palAddr_range hp he
  exact Memory.write16_wf hm (by simp only [Config.memSize]; omega)

section

variable {s : State}

theorem legal_wr8_iff : firstBadOperand Instr.wr8.operands s.args = none ↔
    s.address + 1 ≤ Config.memSize ∧ s.arg2.toNat ≤ 255 := by
  rw [badOperand_wr8]
  split_ifs <;> simp_all

theorem legal_wr16_iff : firstBadOperand Instr.wr16.operands s.args = none ↔
    s.address + 2 ≤ Config.memSize := by
  rw [badOperand_wr16]
  split_ifs <;> simp_all

theorem legal_sprSet_iff : firstBadOperand Instr.sprSet.operands s.args = none ↔
    s.arg0.toNat < 256 ∧ s.arg1.toNat < 8 ∧ s.arg2.toNat < 8 ∧ s.arg3.toNat < 16 := by
  rw [badOperand_sprSet]
  split_ifs <;> simp_all

theorem legal_sprSetRow_iff : firstBadOperand Instr.sprSetRow.operands s.args = none ↔
    s.arg0.toNat < 256 ∧ s.arg1.toNat < 8 := by
  rw [badOperand_sprSetRow]
  split_ifs <;> simp_all

theorem legal_palSet_iff : firstBadOperand Instr.palSet.operands s.args = none ↔
    s.arg0.toNat < 16 ∧ s.arg1.toNat < 16 := by
  rw [badOperand_palSet]
  split_ifs <;> simp_all

end

/-- The effect of a command whose operands are legal keeps `MEM` canonical: the operand checks are what bounds the
addresses of WR8, WR16, SPR_SET, SPR_SETROW and PAL_SET (log entry 6). -/
theorem commandEffect_wf {i : Instr} {s : State} (hm : s.mem.wf = true)
    (hlegal : firstBadOperand i.operands s.args = none) : ((commandEffect i s).apply s).mem.wf = true := by
  cases i with
  | nop | rd8 | rd16 | encode | decode | sprGet | palGet | fbGet => exact hm
  | clear => exact Memory.cleared_wf
  | wr8 => exact Memory.write_wf hm (legal_wr8_iff.1 hlegal).1
  | wr16 => exact Memory.write16_wf hm (legal_wr16_iff.1 hlegal)
  | sprSet =>
    obtain ⟨hbmp, hx, hy, -⟩ := legal_sprSet_iff.1 hlegal
    exact bmpSet_wf hm hbmp hx hy
  | sprSetRow =>
    obtain ⟨hbmp, hrow⟩ := legal_sprSetRow_iff.1 hlegal
    exact bmpSetRow_wf hm hbmp hrow
  | palSet =>
    obtain ⟨hpal, hentry⟩ := legal_palSet_iff.1 hlegal
    exact palSet_wf hm hpal hentry
  | pset => exact plot_wf hm
  | fill => exact paintFill_wf hm
  | rect => exact paintRect_wf hm
  | line => exact plotAll_wf hm
  | raster => exact paintRaster_wf hm

end Sys2Proof.Machine

/-! The statements of the register file, the host port and the invariant (10_state.md; 70_reset_and_hazards.md). -/

namespace Sys2Proof.Machine

theorem errorStatus_mem_legalStatus (e : ErrorCode) : errorStatus e ∈ legalStatus := by
  cases e <;> decide

/-- The invariant speaks of `MEM` and STATUS only. -/
theorem State.Inv.of_eq {s t : State} (h : s.Inv) (hm : t.mem = s.mem) (hs : t.status = s.status) : t.Inv :=
  ⟨hm ▸ h.mem_wf, hs ▸ h.status_legal⟩

theorem State.Inv.setCmd {s : State} (h : s.Inv) (w : Word) : (s.setCmd w).Inv := h.of_eq rfl rfl

theorem State.Inv.setPort {s : State} (h : s.Inv) (rest : List Input) (r : Option Word) : (s.setPort rest r).Inv :=
  h.of_eq rfl rfl

theorem State.Inv.writeReg {s : State} (h : s.Inv) (r : Reg) (v : Word) : (s.writeReg r v).Inv := by
  obtain ⟨hmem, -, -, -, hstatus, -, -⟩ := writeReg_frame s r v
  exact h.of_eq hmem hstatus

/-- Settles O51. -/
theorem resetHasCanonicalState : Obligations.ResetHasCanonicalState :=
  ⟨rfl, List.mem_cons_self⟩

theorem exec_keeps_inv {i : Instr} {s t : State} (hs : s.Inv) (h : exec i s = .next t) : t.Inv := by
  rcases exec_next_cases h with ⟨hlegal, rfl⟩ | ⟨e, rfl⟩
  · exact ⟨commandEffect_wf hs.mem_wf hlegal, List.mem_cons_self⟩
  · exact ⟨hs.mem_wf, errorStatus_mem_legalStatus e⟩

theorem startCommand_keeps_inv {w : Word} {s t : State} (hs : s.Inv) (h : startCommand w s = .next t) : t.Inv := by
  rcases startCommand_cases w s with ⟨i, -, hrun⟩ | ⟨e, -, hrun⟩
  · exact exec_keeps_inv (hs.setCmd w) (hrun.symm.trans h)
  · cases hrun.symm.trans h
    exact ⟨hs.mem_wf, errorStatus_mem_legalStatus .illegalCmd⟩

/-- Settles O52: the transactions other than a write to CMD touch neither `MEM` nor STATUS, or reset both. -/
theorem stepKeepsCanonicalState : Obligations.StepKeepsCanonicalState := by
  intro s t hs h
  rcases step_cases s with ⟨-, hstep⟩ | ⟨n, rest, -, hstep⟩ | ⟨n, w, rest, -, -, hstep⟩ | ⟨n, v, rest, -, -, hstep⟩ |
    ⟨rest, -, hstep⟩
  · cases hstep.symm.trans h
    exact hs
  · cases hstep.symm.trans h
    exact hs.setPort rest _
  · exact startCommand_keeps_inv (hs.setPort rest none) (hstep.symm.trans h)
  · cases hstep.symm.trans h
    exact (hs.setPort rest none).writeReg (regOfNumber n) v
  · cases hstep.symm.trans h
    exact State.Inv.setPort resetHasCanonicalState rest none

theorem SameOperands.setStatus {s t : State} (h : SameOperands s t) (w : Word) : SameOperands s (t.setStatus w) :=
  ⟨h.cmd, h.args, h.inputs, h.response⟩

theorem exec_sameOperands {i : Instr} {s t : State} (h : exec i s = .next t) : SameOperands s t := by
  rcases exec_next_cases h with ⟨-, rfl⟩ | ⟨e, rfl⟩
  · exact ((commandEffect i s).apply_sameOperands s).setStatus 0x0000
  · exact ⟨rfl, rfl, rfl, rfl⟩

theorem startCommand_args {w : Word} {s t : State} (h : startCommand w s = .next t) : t.args = s.args := by
  rcases startCommand_cases w s with ⟨i, -, hrun⟩ | ⟨e, -, hrun⟩
  · exact (exec_sameOperands (hrun.symm.trans h)).args
  · cases hrun.symm.trans h
    rfl

/-- Settles O38. -/
theorem argRegistersKeepHostValue : Obligations.ArgRegistersKeepHostValue := by
  refine ⟨fun s v rest => ?_, fun i s t => exec_sameOperands, fun s t h hwrite hreset => ?_⟩
  · refine ⟨?_, ?_, ?_, ?_, ?_⟩ <;> exact fun h => step_of_registerWrite h (by decide)
  · rcases step_cases s with ⟨-, hstep⟩ | ⟨n, rest, -, hstep⟩ | ⟨n, w, rest, -, -, hstep⟩ |
      ⟨n, v, rest, hin, hr, hstep⟩ | ⟨rest, hin, -⟩
    · cases hstep.symm.trans h
      rfl
    · cases hstep.symm.trans h
      rfl
    · exact (startCommand_args (hstep.symm.trans h)).trans (s.setPort_args rest none)
    · cases hstep.symm.trans h
      rcases hwrite n v rest hin with hzero | hn
      · exact absurd ((regOfNumber_eq_cmd_iff n).2 hzero) hr
      · rw [writeReg_readOnly _ v hn, State.setPort_args]
    · exact absurd hin (hreset rest)

/-- Settles O39. -/
theorem writesToReadOnlyIgnored : Obligations.WritesToReadOnlyIgnored := by
  intro s n v rest hn h
  rw [step_of_registerWrite h (regOfNumber_ne_cmd_of_readOnly hn), writeReg_readOnly _ v hn]
  rfl

/-- Settles O37. -/
theorem hostReadAnswersRegister : Obligations.HostReadAnswersRegister := by
  intro s n rest h
  rw [step_of_read h, readReg_regOfNumber]
  rfl

/-- Settles O4. -/
theorem stepRunsDecodedCommand : Obligations.StepRunsDecodedCommand := by
  intro s w i rest h hdecode
  rw [step_of_cmdWrite h, startCommand_of_decode hdecode]
  rfl

/-- Settles O40: a command that is no producer has an effect on `MEM` alone, and one that raises has none. -/
theorem onlyProducersWriteResults : Obligations.OnlyProducersWriteResults := by
  refine ⟨fun i s t h => ?_, fun s t h hwrite hreset => ?_⟩
  · rcases exec_next_cases h with ⟨-, rfl⟩ | ⟨e, rfl⟩
    · refine ⟨fun hi => ?_, fun hi => ?_, fun hstatus => absurd rfl hstatus⟩
      · obtain ⟨m, he⟩ := commandEffect_store_of_not_producer s hi
        rw [he]
        exact ⟨rfl, rfl, rfl⟩
      · cases he : commandEffect i s with
        | store m => exact ⟨rfl, rfl⟩
        | answer w => exact ⟨rfl, rfl⟩
        | answer3 w0 w1 w2 => exact absurd he (commandEffect_ne_answer3 s hi w0 w1 w2)
    · exact ⟨fun _ => ⟨rfl, rfl, rfl⟩, fun _ => ⟨rfl, rfl⟩, fun _ => ⟨rfl, rfl, rfl⟩⟩
  · rcases step_cases s with ⟨-, hstep⟩ | ⟨n, rest, -, hstep⟩ | ⟨n, w, rest, hin, hr, -⟩ |
      ⟨n, v, rest, -, -, hstep⟩ | ⟨rest, hin, -⟩
    · cases hstep.symm.trans h
      exact ⟨rfl, rfl, rfl⟩
    · cases hstep.symm.trans h
      exact ⟨rfl, rfl, rfl⟩
    · rw [(regOfNumber_eq_cmd_iff n).1 hr] at hin
      exact absurd hin (hwrite w rest)
    · cases hstep.symm.trans h
      obtain ⟨-, h0, h1, h2, -, -, -⟩ := writeReg_frame (s.setPort rest none) (regOfNumber n) v
      exact ⟨h0, h1, h2⟩
    · exact absurd hin (hreset rest)

/-- Settles O41: the operand checks and the effect are functions of the ARG registers and `MEM`. -/
theorem commandReadsOnlyArgsAndMemory : Obligations.CommandReadsOnlyArgsAndMemory := by
  intro i s s' hargs hmem
  rcases hb : firstBadOperand i.operands s.args with _ | b
  · refine ⟨_, _, exec_of_legal hb, exec_of_legal (hargs ▸ hb), ?_⟩
    rw [← commandEffect_congr i hargs hmem]
    cases commandEffect i s with
    | store m => exact ⟨rfl, rfl, .inr ⟨rfl, rfl⟩, .inr ⟨rfl, rfl⟩, .inr ⟨rfl, rfl⟩⟩
    | answer w => exact ⟨hmem, rfl, .inl rfl, .inr ⟨rfl, rfl⟩, .inr ⟨rfl, rfl⟩⟩
    | answer3 w0 w1 w2 => exact ⟨hmem, rfl, .inl rfl, .inl rfl, .inl rfl⟩
  · exact ⟨_, _, exec_of_bad hb, exec_of_bad (hargs ▸ hb), hmem, rfl, .inr ⟨rfl, rfl⟩, .inr ⟨rfl, rfl⟩,
      .inr ⟨rfl, rfl⟩⟩

end Sys2Proof.Machine

/-! SUPPORT. The address map (20_memory.md R55, R56): the bounds of each region, and the region of each address. -/

namespace Sys2Proof.Machine

theorem inZone_general_iff (a : Nat) : inZone .general a ↔ a < 0x15A00 := by
  simp only [inZone, zoneFirst, zoneBytes, Config.fbBase]
  omega

theorem inZone_framebuffer_iff (a : Nat) : inZone .framebuffer a ↔ 0x15A00 ≤ a ∧ a < 0x1DA00 := by
  simp only [inZone, zoneFirst, zoneBytes, Config.fbBase, Config.fbW, Config.fbH]

theorem inZone_palettes_iff (a : Nat) : inZone .palettes a ↔ 0x1DA00 ≤ a ∧ a < 0x1DC00 := by
  simp only [inZone, zoneFirst, zoneBytes, Config.palBase, Config.palCount, Config.palSize]

theorem inZone_bitmaps_iff (a : Nat) : inZone .bitmaps a ↔ 0x1DC00 ≤ a ∧ a < 0x1FC00 := by
  simp only [inZone, zoneFirst, zoneBytes, Config.bmpBase, Config.bmpCount, Config.bmpBytes]

theorem inZone_descriptors_iff (a : Nat) : inZone .descriptors a ↔ 0x1FC00 ≤ a ∧ a < 0x20000 := by
  simp only [inZone, zoneFirst, zoneBytes, Config.descBase, Config.descCount, Config.descBytes]

/-- The region of an address: the bounds of 20_memory.md R55 in ascending order, none from `MEM_SIZE` on. -/
def zoneOf (a : Nat) : Option Zone :=
  if a < 0x15A00 then some .general
  else if a < 0x1DA00 then some .framebuffer
  else if a < 0x1DC00 then some .palettes
  else if a < 0x1FC00 then some .bitmaps
  else if a < 0x20000 then some .descriptors
  else none

theorem inZone_iff_zoneOf (z : Zone) (a : Nat) : inZone z a ↔ zoneOf a = some z := by
  unfold zoneOf
  cases z with
  | general => rw [inZone_general_iff]; split_ifs <;> simp <;> omega
  | framebuffer => rw [inZone_framebuffer_iff]; split_ifs <;> simp <;> omega
  | palettes => rw [inZone_palettes_iff]; split_ifs <;> simp <;> omega
  | bitmaps => rw [inZone_bitmaps_iff]; split_ifs <;> simp <;> omega
  | descriptors => rw [inZone_descriptors_iff]; split_ifs <;> simp <;> omega

theorem zoneOf_isSome_iff (a : Nat) : (∃ z, zoneOf a = some z) ↔ a < 131072 := by
  unfold zoneOf
  split_ifs <;> simp <;> omega

theorem inZone_unique {z z' : Zone} {a : Nat} (h : inZone z a) (h' : inZone z' a) : z = z' :=
  Option.some.inj (((inZone_iff_zoneOf z a).1 h).symm.trans ((inZone_iff_zoneOf z' a).1 h'))

theorem not_inZone_general_iff (a : Nat) : ¬ inZone .general a ↔ 0x15A00 ≤ a := by
  rw [inZone_general_iff, Nat.not_lt]

end Sys2Proof.Machine

/-! SUPPORT. Operations on `MEM` that write fixed values inside a range of addresses, whatever `MEM` holds. -/

namespace Sys2Proof.Machine

/-- Each byte is kept by `f`, or it satisfies `p` and holds the same value after `f` whatever `MEM` held. -/
def WritesOnly (p : Nat → Prop) (f : Memory → Memory) : Prop :=
  ∀ a, (∀ m : Memory, (f m).read a = m.read a) ∨ (p a ∧ ∃ v, ∀ m : Memory, (f m).read a = v)

namespace WritesOnly

variable {p q : Nat → Prop} {f g : Memory → Memory}

theorem frame (hf : WritesOnly p f) {a : Nat} (ha : ¬ p a) (m : Memory) : (f m).read a = m.read a :=
  (hf a).elim (· m) fun h => absurd h.1 ha

/-- Memories that agree at a byte agree there after the operation. -/
theorem read_congr (hf : WritesOnly p f) {m m' : Memory} {a : Nat} (h : m'.read a = m.read a) :
    (f m').read a = (f m).read a := by
  rcases hf a with hkept | ⟨-, v, hv⟩
  · rw [hkept, hkept, h]
  · rw [hv, hv]

theorem mono (hf : WritesOnly p f) (hpq : ∀ a, p a → q a) : WritesOnly q f :=
  fun a => (hf a).imp_right (And.imp_left (hpq a))

theorem keeps : WritesOnly p fun m => m := fun _ => .inl fun _ => rfl

theorem comp (hg : WritesOnly p g) (hf : WritesOnly p f) : WritesOnly p fun m => g (f m) := by
  intro a
  rcases hg a with hgkept | ⟨hp, v, hv⟩
  · simpa only [hgkept] using hf a
  · exact .inr ⟨hp, v, fun m => hv (f m)⟩

theorem loop {n : Nat} {body : Nat → Memory → Memory} (h : ∀ i, i < n → WritesOnly p (body i)) :
    WritesOnly p (loop n body) := by
  induction n with
  | zero => exact keeps
  | succ n ih =>
    have hlast := (h n (Nat.lt_succ_self n)).comp (ih fun i hi => h i (Nat.lt_succ_of_lt hi))
    simpa only [← loop_succ] using hlast

theorem writeBytes {a : Nat} {vs : List Byte} (h : ∀ b, a ≤ b → b < a + vs.length → p b) :
    WritesOnly p fun m => m.writeBytes a vs := by
  intro b
  by_cases hb : a ≤ b ∧ b < a + vs.length
  · exact .inr ⟨h b hb.1 hb.2, vs.getD (b - a) 0x00, fun m => by rw [Memory.read_writeBytes, if_pos hb]⟩
  · exact .inl fun m => by rw [Memory.read_writeBytes, if_neg hb]

theorem write {a : Nat} {v : Byte} (h : p a) : WritesOnly p fun m => m.write a v := by
  refine writeBytes fun b hlo hhi => ?_
  rw [List.length_singleton] at hhi
  rwa [show b = a by omega]

theorem writeWords {a : Nat} {ws : List Word} (h : ∀ b, a ≤ b → b < a + 2 * ws.length → p b) :
    WritesOnly p fun m => m.writeWords a ws :=
  writeBytes fun b hlo hhi => h b hlo (by rwa [littleEndian_length] at hhi)

theorem write16 {a : Nat} {v : Word} (h0 : p a) (h1 : p (a + 1)) : WritesOnly p fun m => m.write16 a v := by
  refine writeWords fun b hlo hhi => ?_
  rw [List.length_singleton] at hhi
  rcases show b = a ∨ b = a + 1 by omega with rfl | rfl
  · exact h0
  · exact h1

end WritesOnly

/-! ### The painters write the framebuffer only (20_memory.md R62) -/

theorem plot_writesOnly (x y : Int) (c : Word) : WritesOnly (inZone .framebuffer) (plot x y c) := by
  rcases onScreen_cases x y with hoff | ⟨px, py, hx, hy, rfl, rfl, -⟩
  · rw [show plot x y c = fun m => m from funext (plot_offScreen hoff c)]
    exact .keeps
  · have := fbAddr_range hx hy
    rw [show plot px py c = fun m => m.write16 (fbAddr px py) c from funext (plot_onScreen hx hy c)]
    exact .write16 ((inZone_framebuffer_iff _).2 (by omega)) ((inZone_framebuffer_iff _).2 (by omega))

theorem paintFill_writesOnly (c : Word) : WritesOnly (inZone .framebuffer) (paintFill c) := by
  refine .writeWords fun b hlo hhi => (inZone_framebuffer_iff b).2 ⟨hlo, ?_⟩
  rwa [List.length_replicate] at hhi

theorem paintRect_writesOnly (x y w h : Int) (c : Word) :
    WritesOnly (inZone .framebuffer) (paintRect x y w h c) := by
  refine .loop fun j hj => .writeWords fun b hlo hhi => (inZone_framebuffer_iff b).2 ?_
  have hcols := clipSpan_empty_or_le x w Config.fbW
  have hrows := clipSpan_empty_or_le y h Config.fbH
  simp only [fbAddr_eq, List.length_replicate, Config.fbW, Config.fbH] at *
  omega

theorem plotAll_writesOnly (ps : List (Int × Int)) (c : Word) :
    WritesOnly (inZone .framebuffer) (plotAll ps c) := by
  induction ps with
  | nil => exact .keeps
  | cons p ps ih => exact ih.comp (plot_writesOnly p.1 p.2 c)

theorem rasterPixel_writesOnly (src : Memory) (d : Descriptor) (tx ty x y : Nat) :
    WritesOnly (inZone .framebuffer) (rasterPixel src d tx ty x y) := by
  unfold rasterPixel
  dsimp only
  split
  · exact plot_writesOnly _ _ _
  · exact .keeps

theorem rasterDescriptor_writesOnly (src : Memory) (d : Descriptor) :
    WritesOnly (inZone .framebuffer) (rasterDescriptor src d) := by
  unfold rasterDescriptor
  split
  · exact .loop fun _ _ => .loop fun _ _ => .loop fun _ _ => .loop fun _ _ => rasterPixel_writesOnly src d _ _ _ _
  · exact .keeps

/-- RASTER with the descriptors, bitmaps and palettes of `src` (44_rasterizer.md R190). -/
def rasterFrom (src : Memory) : Memory → Memory :=
  loop Config.descCount fun n => rasterDescriptor src (descRead src n)

theorem paintRaster_eq_rasterFrom (m : Memory) : paintRaster m = rasterFrom (rasterSource m) m := rfl

theorem rasterFrom_writesOnly (src : Memory) : WritesOnly (inZone .framebuffer) (rasterFrom src) :=
  .loop fun _ _ => rasterDescriptor_writesOnly src _

end Sys2Proof.Machine

/-! SUPPORT. What the commands read from the zones is the same in memories that differ in the general region only
(20_memory.md R56). -/

namespace Sys2Proof.Machine

/-- The two memories hold the same bytes above the general region. -/
def SameZones (m m' : Memory) : Prop := ∀ a, 0x15A00 ≤ a → m'.read a = m.read a

theorem sameZones_iff {s s' : State} : SameZones s.mem s'.mem ↔ SameMemOutside (inZone .general) s s' := by
  simp only [SameZones, SameMemOutside, not_inZone_general_iff]

namespace SameZones

variable {m m' : Memory}

theorem refl (m : Memory) : SameZones m m := fun _ _ => rfl

theorem read16 (h : SameZones m m') {a : Nat} (ha : 0x15A00 ≤ a) : m'.read16 a = m.read16 a :=
  Memory.read16_congr (h a ha) (h (a + 1) (by omega))

theorem palColor (h : SameZones m m') (p ci : Nat) : palColor m' p ci = palColor m p ci :=
  h.read16 (by rw [palAddr_eq]; omega)

theorem read_bmpByteAddr (h : SameZones m m') (s x y : Nat) :
    m'.read (bmpByteAddr s x y) = m.read (bmpByteAddr s x y) :=
  h _ (by rw [bmpByteAddr_eq]; omega)

theorem bmpGet (h : SameZones m m') (s x y : Nat) : bmpGet m' s x y = bmpGet m s x y := by
  simp only [Machine.bmpGet, h.read_bmpByteAddr]

/-- BmpSet writes one byte, whose value depends on `MEM` through that byte of the bitmap zone alone. -/
theorem bmpSet_eq_write (h : SameZones m m') (s x y : Nat) (v : BitVec 4) :
    bmpSet s x y v m' = m'.write (bmpByteAddr s x y)
      (if x % 2 = 0 then hiNibble (m.read (bmpByteAddr s x y)) ++ v
        else v ++ loNibble (m.read (bmpByteAddr s x y))) := by
  simp only [bmpSet, h.read_bmpByteAddr]

theorem descRead (h : SameZones m m') (n : Nat) : descRead m' n = descRead m n := by
  have haddr (k : Nat) : 0x15A00 ≤ descAddr n + k := by rw [descAddr_eq]; omega
  simp only [Machine.descRead, h.read16 (show 0x15A00 ≤ descAddr n from haddr 0), h.read16 (haddr 2),
    h _ (haddr 4), h _ (haddr 5), h _ (haddr 6)]

theorem tileColor (h : SameZones m m') : tileColor m' = tileColor m := by
  funext d tx ty x y
  simp only [Machine.tileColor, h.bmpGet, h.palColor]

theorem rasterFrom (h : SameZones m m') : rasterFrom m' = rasterFrom m := by
  have hpixel : rasterPixel m' = rasterPixel m := by
    unfold rasterPixel
    rw [h.tileColor]
  unfold Machine.rasterFrom rasterDescriptor
  simp only [hpixel, h.descRead]

theorem rasterSource (h : SameZones m m') : SameZones (rasterSource m) (rasterSource m') := by
  intro a ha
  have hsource (k : Memory) := Memory.read_filter k (fun b => decide (Config.palBase ≤ b)) a
  exact (hsource m').trans (Eq.trans (by rw [h a ha]) (hsource m).symm)

end SameZones

end Sys2Proof.Machine

/-! SUPPORT. What the commands that read or write `MEM` compute, and what they share in states that differ in the
general region only (20_memory.md R56). -/

namespace Sys2Proof.Machine

/-! ### Bytes -/

theorem zextByte_loByte (v : Word) : zextByte (loByte v) = v &&& 0x00FF := by
  apply BitVec.eq_of_toNat_eq
  rw [BitVec.toNat_and, show (0x00FF : Word).toNat = 2 ^ 8 - 1 from rfl, Nat.and_two_pow_sub_one_eq_mod]
  simp only [zextByte, loByte, BitVec.toNat_setWidth, BitVec.extractLsb'_toNat, Nat.shiftRight_zero]
  omega

theorem zextByte_hiByte (v : Word) : zextByte (hiByte v) = v >>> 8 := by
  apply BitVec.eq_of_toNat_eq
  simp only [zextByte, hiByte, BitVec.toNat_setWidth, BitVec.extractLsb'_toNat, BitVec.toNat_ushiftRight,
    Nat.shiftRight_eq_div_pow]
  omega

theorem Memory.write_read_self {m : Memory} {a : Nat} (hm : m.wf = true) (ha : a < Config.memSize) :
    m.write a (m.read a) = m := by
  refine Memory.eq_of_read (Memory.write_wf hm ha) hm fun b => ?_
  rw [Memory.read_write]
  split
  · next hb => rw [hb]
  · rfl

/-! ### Commands with legal operands -/

theorem legal_rd8_iff {s : State} : firstBadOperand Instr.rd8.operands s.args = none ↔
    s.address + 1 ≤ Config.memSize := by
  rw [badOperand_rd8]
  split_ifs <;> simp_all

theorem legal_rd16_iff {s : State} : firstBadOperand Instr.rd16.operands s.args = none ↔
    s.address + 2 ≤ Config.memSize := by
  rw [badOperand_rd16]
  split_ifs <;> simp_all

theorem exec_rd8_of_legal {s : State} (ha : s.address + 1 ≤ Config.memSize) :
    exec .rd8 s = .next { s with res0 := zextByte (s.mem.read s.address), status := 0x0000 } :=
  exec_of_legal (legal_rd8_iff.2 ha)

theorem exec_wr8_of_legal {s : State} (ha : s.address + 1 ≤ Config.memSize) (hbyte : s.arg2.toNat ≤ 255) :
    exec .wr8 s = .next { s with mem := s.mem.write s.address (loByte s.arg2), status := 0x0000 } :=
  exec_of_legal (legal_wr8_iff.2 ⟨ha, hbyte⟩)

theorem exec_rd16_of_legal {s : State} (ha : s.address + 2 ≤ Config.memSize) :
    exec .rd16 s = .next { s with res0 := s.mem.read16 s.address, status := 0x0000 } :=
  exec_of_legal (legal_rd16_iff.2 ha)

theorem exec_wr16_of_legal {s : State} (ha : s.address + 2 ≤ Config.memSize) :
    exec .wr16 s = .next { s with mem := s.mem.write16 s.address s.arg2, status := 0x0000 } :=
  exec_of_legal (legal_wr16_iff.2 ha)

/-- The painters take operands of every value (30_encoding.md R84, R85). -/
theorem legal_painter {i : Instr} (hi : i ∈ ([.pset, .fill, .rect, .line, .raster] : List Instr)) (s : State) :
    firstBadOperand i.operands s.args = none := by
  cases i
  case pset | fill | rect | line | raster => rfl
  all_goals simp at hi

theorem legal_fbGet_iff {s : State} : firstBadOperand Instr.fbGet.operands s.args = none ↔ s.arg0.toNat < 16384 := by
  rw [badOperand_fbGet]
  split_ifs <;> simp_all

theorem exec_fbGet_of_legal {s : State} (hk : s.arg0.toNat < 16384) :
    exec .fbGet s = .next { s with res0 := s.mem.read16 (Config.fbBase + 2 * s.arg0.toNat), status := 0x0000 } :=
  exec_of_legal (legal_fbGet_iff.2 hk)

theorem exec_pset (s : State) : exec .pset s =
    .next { s with mem := plot (coordOperand s.arg0) (coordOperand s.arg1) s.arg2 s.mem, status := 0x0000 } :=
  exec_of_legal (legal_painter (by decide) s)

/-! ### Commands in states with the same zones -/

/-- The effect of a command is that of the state with the same ARG registers and `MEM`. -/
theorem commandEffect_eq_setMem (i : Instr) {s s' : State} (hargs : s'.args = s.args) :
    commandEffect i s' = commandEffect i (s.setMem s'.mem) :=
  commandEffect_congr i hargs rfl

/-- In states with the same operands and zones a painter does one and the same operation, on the framebuffer. -/
theorem commandEffect_painter {i : Instr} {s s' : State}
    (hi : i ∈ ([.pset, .fill, .rect, .line, .raster] : List Instr)) (hargs : s'.args = s.args)
    (hmem : SameZones s.mem s'.mem) :
    ∃ f, WritesOnly (inZone .framebuffer) f ∧ commandEffect i s = .store (f s.mem) ∧
      commandEffect i s' = .store (f s'.mem) := by
  rw [commandEffect_eq_setMem i hargs]
  cases i
  case pset => exact ⟨_, plot_writesOnly _ _ _, rfl, rfl⟩
  case fill => exact ⟨_, paintFill_writesOnly _, rfl, rfl⟩
  case rect => exact ⟨_, paintRect_writesOnly _ _ _ _ _, rfl, rfl⟩
  case line => exact ⟨_, plotAll_writesOnly _ _, rfl, rfl⟩
  case raster =>
    refine ⟨_, rasterFrom_writesOnly (rasterSource s.mem), congrArg CommandEffect.store (paintRaster_eq_rasterFrom _),
      congrArg CommandEffect.store ?_⟩
    rw [paintRaster_eq_rasterFrom, State.setMem_mem, hmem.rasterSource.rasterFrom]
  all_goals simp at hi

/-- In states with the same operands and zones, a command other than WR8, WR16 and CLEAR does one and the same
operation on `MEM`, which writes nothing in the general region. -/
theorem commandEffect_writesOnly {i : Instr} {s s' : State} (hi : i ∉ ([.wr8, .wr16, .clear] : List Instr))
    (hargs : s'.args = s.args) (hmem : SameZones s.mem s'.mem) :
    ∃ f, WritesOnly (fun a => ¬ inZone .general a) f ∧ ((commandEffect i s).apply s).mem = f s.mem ∧
      ((commandEffect i s').apply s').mem = f s'.mem := by
  by_cases hpaint : i ∈ ([.pset, .fill, .rect, .line, .raster] : List Instr)
  · obtain ⟨f, hf, he, he'⟩ := commandEffect_painter hpaint hargs hmem
    rw [he, he']
    exact ⟨f, hf.mono fun a hframe hgeneral => Zone.noConfusion (inZone_unique hframe hgeneral), rfl, rfl⟩
  rw [commandEffect_eq_setMem i hargs]
  simp only [not_inZone_general_iff]
  cases i with
  | wr8 | wr16 | clear => simp at hi
  | pset | fill | rect | line | raster => simp at hpaint
  | nop | rd8 | rd16 | encode | decode | sprGet | palGet | fbGet => exact ⟨_, .keeps, rfl, rfl⟩
  | sprSet =>
    refine ⟨_, .write ?_, (SameZones.refl s.mem).bmpSet_eq_write _ _ _ _, hmem.bmpSet_eq_write _ _ _ _⟩
    rw [bmpByteAddr_eq]
    omega
  | sprSetRow =>
    refine ⟨bmpSetRow s.arg0.toNat s.arg1.toNat s.arg2 s.arg3, .writeWords fun b hlo _ => ?_, rfl, rfl⟩
    simp only [bmpRowAddr, Config.bmpBase] at hlo
    omega
  | palSet =>
    have haddr : 0x15A00 ≤ palAddr s.arg0.toNat s.arg1.toNat := by rw [palAddr_eq]; omega
    exact ⟨_, .write16 haddr (Nat.le_succ_of_le haddr), rfl, rfl⟩

/-- In states with the same operands and zones, a command other than RD8 and RD16 answers the same. -/
theorem commandEffect_sameResults {i : Instr} {s s' : State} (hi : i ∉ ([.rd8, .rd16] : List Instr))
    (hargs : s'.args = s.args) (hmem : SameZones s.mem s'.mem) (hres : SameResults s s') :
    SameResults ((commandEffect i s).apply s) ((commandEffect i s').apply s') := by
  rw [commandEffect_eq_setMem i hargs]
  cases i with
  | rd8 | rd16 => simp at hi
  | nop | clear | wr8 | wr16 | sprSet | sprSetRow | palSet | pset | fill | rect | line | raster =>
    exact ⟨hres.res0, hres.res1, hres.res2⟩
  | encode => exact ⟨rfl, hres.res1, hres.res2⟩
  | decode => exact ⟨rfl, rfl, rfl⟩
  | sprGet => exact ⟨congrArg (BitVec.setWidth 16) (hmem.bmpGet _ _ _), hres.res1, hres.res2⟩
  | palGet => exact ⟨hmem.palColor _ _, hres.res1, hres.res2⟩
  | fbGet => exact ⟨hmem.read16 (Nat.le_add_right Config.fbBase _), hres.res1, hres.res2⟩

end Sys2Proof.Machine

/-! The statements of the memory (20_memory.md R51 to R62). -/

namespace Sys2Proof.Machine

/-- Settles O42: the regions are the fibers of `zoneOf`. -/
theorem zonesPartitionMemory : Obligations.ZonesPartitionMemory := by
  refine ⟨fun a => ?_, fun a => ?_, fun a => ?_, fun a => ?_, fun a => ?_, fun a => ?_, fun z z' a => inZone_unique,
    by decide⟩
  · rw [inZone_descriptors_iff]; omega
  · rw [inZone_bitmaps_iff]; omega
  · rw [inZone_palettes_iff]; omega
  · rw [inZone_framebuffer_iff]; omega
  · rw [inZone_general_iff]; omega
  · simp only [inZone_iff_zoneOf, zoneOf_isSome_iff]

/-! ### Bytes (20_memory.md R51 to R54) -/

/-- Settles O12: WR16 leaves `v[7:0]` at the address and `v[15:8]` after it, and the reads see these bytes. -/
theorem mixedWidthsSeeSameBytes : Obligations.MixedWidthsSeeSameBytes := by
  intro s t hs hwrite
  have ha : s.address + 2 ≤ Config.memSize := hs
  obtain ⟨hmem, haddr⟩ : t.mem = s.mem.write16 s.address s.arg2 ∧ t.address = s.address := by
    cases (exec_wr16_of_legal ha).symm.trans hwrite
    exact ⟨rfl, rfl⟩
  have hlo : t.mem.read s.address = loByte s.arg2 := by rw [hmem, Memory.read_write16, if_pos rfl]
  have hhi : t.mem.read (s.address + 1) = hiByte s.arg2 := by
    rw [hmem, Memory.read_write16, if_neg (Nat.succ_ne_self _), if_pos rfl]
  refine ⟨?_, ?_, fun lo hi hnext => ?_⟩
  · rw [exec_rd16_of_legal (by rw [haddr]; exact ha), haddr, Memory.read16, hlo, hhi, hiByte_append_loByte]
  · rw [exec_rd8_of_legal (by rw [haddr]; exact Nat.le_of_succ_le ha), haddr, hlo, zextByte_loByte]
  · have hnext' : State.address { t with arg0 := lo, arg1 := hi } = s.address + 1 := hnext
    rw [exec_rd8_of_legal (by rw [hnext']; exact ha), hnext', hhi, zextByte_hiByte]

/-- Settles O13: a canonical `MEM` is determined by its bytes, and the write changes none. -/
theorem rewriteOfSameByteChangesNothing : Obligations.RewriteOfSameByteChangesNothing := by
  intro s hinv ha hbyte hread
  have hsame : s.mem.write s.address (loByte s.arg2) = s.mem := by
    rw [loByte, ← hread]
    exact Memory.write_read_self hinv.mem_wf ha
  rw [exec_wr8_of_legal ha hbyte, hsame]

/-! ### Pixels (20_memory.md R57, R62) -/

/-- Settles O31: the linear index `x + 128*y` is the pixel `(x, y)`, and `Plot` on the screen gives it the color. -/
theorem fbGetAfterPset : Obligations.FbGetAfterPset := by
  intro s t x y k hx hy hargx hargy hpset hk
  have hpixel : t.mem.read16 (Config.fbBase + 2 * k.toNat) = s.arg2 := by
    cases (exec_pset s).symm.trans hpset
    rw [hk]
    exact (pixel_plot _ _ _ _ x y hx hy).trans (if_pos ⟨hargx, hargy⟩)
  rw [exec_fbGet_of_legal (show k.toNat < 16384 by omega), hpixel]

/-- Settles O43: a painter refuses no operand, and its effect is an operation on the framebuffer. -/
theorem paintersStayInFramebuffer : Obligations.PaintersStayInFramebuffer := by
  intro i hi s
  obtain ⟨f, hf, heffect, -⟩ := commandEffect_painter hi rfl (SameZones.refl s.mem)
  refine ⟨_, exec_of_legal (legal_painter hi s), fun a ha => ?_⟩
  rw [heffect]
  exact hf.frame ha s.mem

/-! ### The general region (20_memory.md R56) -/

theorem exec_keepsGeneral {i : Instr} {s t : State} (hi : i ∉ ([.wr8, .wr16, .clear] : List Instr))
    (h : exec i s = .next t) {a : Nat} (ha : inZone .general a) : t.mem.read a = s.mem.read a := by
  rcases exec_next_cases h with ⟨-, rfl⟩ | ⟨e, rfl⟩
  · obtain ⟨f, hf, hfs, -⟩ := commandEffect_writesOnly hi rfl (SameZones.refl s.mem)
    rw [State.setStatus_mem, hfs]
    exact hf.frame (not_not_intro ha) s.mem
  · rfl

theorem exec_ignoresGeneral {i : Instr} {s s' t t' : State}
    (hi : i ∉ ([.rd8, .wr8, .rd16, .wr16, .clear] : List Instr)) (hargs : s'.args = s.args) (hres : SameResults s s')
    (hmem : SameZones s.mem s'.mem) (h : exec i s = .next t) (h' : exec i s' = .next t') :
    SameResults t t' ∧ t'.status = t.status ∧ SameZones t.mem t'.mem := by
  rcases hb : firstBadOperand i.operands s.args with _ | b
  · rw [exec_of_legal hb] at h
    rw [exec_of_legal (hargs ▸ hb)] at h'
    cases h
    cases h'
    obtain ⟨r0, r1, r2⟩ := commandEffect_sameResults (i := i) (by simp_all) hargs hmem hres
    obtain ⟨f, hf, hfs, hfs'⟩ := commandEffect_writesOnly (i := i) (by simp_all) hargs hmem
    refine ⟨⟨r0, r1, r2⟩, rfl, fun a ha => ?_⟩
    rw [State.setStatus_mem, State.setStatus_mem, hfs, hfs']
    exact hf.read_congr (hmem a ha)
  · rw [exec_of_bad hb] at h
    rw [exec_of_bad (hargs ▸ hb)] at h'
    cases h
    cases h'
    exact ⟨⟨hres.res0, hres.res1, hres.res2⟩, rfl, hmem⟩

/-- Settles O44: the commands that may not touch the region do one operation on `MEM`, the same whatever the region
holds, that writes above it, and answer from their operands and the zones. -/
theorem generalRegionNeedsMemoryCommand : Obligations.GeneralRegionNeedsMemoryCommand := by
  refine ⟨fun a => ?_, fun z a hz ha => ?_, fun i s t hi h a => exec_keepsGeneral hi h,
    fun i s s' t t' hi hargs hres hmem h h' => ?_⟩
  · rw [inZone_general_iff]; omega
  · exact (not_inZone_general_iff a).1 fun hgeneral => hz (inZone_unique ha hgeneral)
  · obtain ⟨hresults, hstatus, hzones⟩ := exec_ignoresGeneral hi hargs hres (sameZones_iff.2 hmem) h h'
    exact ⟨hresults, hstatus, sameZones_iff.1 hzones⟩

end Sys2Proof.Machine

/-! SUPPORT. The decoder and the encoder are one table (30_encoding.md R80, R82). -/

namespace Sys2Proof.Machine

/-- A 16-bit value is its two bytes. -/
theorem word_eq_iff {v w : Word} : v = w ↔ hiByte v = hiByte w ∧ loByte v = loByte w := by
  refine ⟨fun h => h ▸ ⟨rfl, rfl⟩, fun ⟨hhi, hlo⟩ => ?_⟩
  rw [← hiByte_append_loByte v, hhi, hlo, hiByte_append_loByte]

/-- The RSV byte of a command word (30_encoding.md R80). -/
@[simp] theorem hiByte_encode (i : Instr) : hiByte (encode i) = 0#8 := by
  cases i <;> rfl

/-- The opcode map assigns an opcode to a command exactly when it is the OPC byte of its word. -/
theorem instrOfOpcode_eq_some_iff {opc : Nat} {i : Instr} :
    instrOfOpcode opc = some i ↔ opc = (loByte (encode i)).toNat := by
  constructor
  · unfold instrOfOpcode
    split <;> rintro ⟨⟩ <;> rfl
  · rintro rfl
    cases i <;> rfl

theorem decode_eq_ok_iff {w : Word} {i : Instr} :
    decode w = .ok i ↔ hiByte w = 0#8 ∧ instrOfOpcode (loByte w).toNat = some i := by
  unfold decode hiByte loByte
  split
  · next hrsv => simp [hrsv]
  · next hrsv =>
    split
    · next j hj => rw [hj]; simp [not_not.1 hrsv]
    · next hnone => rw [hnone]; simp

end Sys2Proof.Machine

/-! The statements of the decoder (30_encoding.md R80 to R83). -/

namespace Sys2Proof.Machine

/-- Settles O2: both sides say that RSV is zero and OPC is that of the command's word. -/
theorem decodeInvertsEncode : Obligations.DecodeInvertsEncode := by
  intro w i
  rw [decode_eq_ok_iff, instrOfOpcode_eq_some_iff, word_eq_iff, hiByte_encode, BitVec.toNat_inj]

theorem decode_encode (i : Instr) : decode (encode i) = .ok i := (decodeInvertsEncode _ i).2 rfl

/-- Settles O1. -/
theorem tableWordsDecode : Obligations.TableWordsDecode :=
  ⟨decode_encode .nop, decode_encode .clear, decode_encode .rd8, decode_encode .wr8, decode_encode .rd16,
    decode_encode .wr16, decode_encode .encode, decode_encode .decode, decode_encode .sprSet, decode_encode .sprGet,
    decode_encode .sprSetRow, decode_encode .palSet, decode_encode .palGet, decode_encode .pset, decode_encode .fill,
    decode_encode .rect, decode_encode .line, decode_encode .fbGet, decode_encode .raster⟩

/-- Settles O3: a word that decodes is the word of its command, so it is one of the 19. -/
theorem otherWordsAreIllegal : Obligations.OtherWordsAreIllegal := by
  intro w s rest hw h
  rcases startCommand_cases w (s.setPort rest none) with ⟨i, hdecode, -⟩ | ⟨e, -, hrun⟩
  · obtain rfl := (decodeInvertsEncode w i).1 hdecode
    exact absurd (by cases i <;> decide) hw
  · exact (step_of_cmdWrite h).trans hrun

end Sys2Proof.Machine

/-! SUPPORT. Runs of the transactions of an assembled line (30_encoding.md R87). -/

namespace Sys2Proof.Machine

/-! ### Runs -/

theorem run_of_step_refused {s : State} {q : Refusal} (k : Nat) (h : step s = .refused q) :
    core.run (k + 1) s = .refused q := by
  have hc : core.step s = .refused q := h
  exact (Host.Core.run.eq_2 core s k).trans (by rw [hc])

theorem run_one (s : State) : core.run 1 s = step s := by
  rcases hstep : step s with t | f | q
  · exact run_of_step_next 0 hstep
  · cases f
  · exact run_of_step_refused 0 hstep

/-- A run whose first `j` steps go on is those steps and the rest of the run. -/
theorem run_add_of_run_next {j : Nat} {s t : State} (k : Nat) (h : core.run j s = .next t) :
    core.run (j + k) s = core.run k t := by
  induction j generalizing s with
  | zero =>
    cases h
    rw [Nat.zero_add]
  | succ j ih =>
    rcases hstep : step s with u | f | q
    · rw [Nat.succ_add, run_of_step_next _ hstep]
      exact ih ((run_of_step_next j hstep).symm.trans h)
    · cases f
    · cases (run_of_step_refused j hstep).symm.trans h

/-! ### The ARG writes of a line -/

/-- The host writes of `ws` to the registers from number `k` on. -/
def registerWrites : Nat → List Word → List Input
  | _, [] => []
  | k, w :: ws => .write (BitVec.ofNat 4 k) w :: registerWrites (k + 1) ws

/-- What these writes store, when no number is that of CMD. -/
def storeRegisters : Nat → List Word → State → State
  | _, [], s => s
  | k, w :: ws, s => storeRegisters (k + 1) ws (s.writeReg (regOfNumber (BitVec.ofNat 4 k)) w)

theorem regOfNumber_ofNat_ne_cmd {k : Nat} (h0 : 0 < k) (h16 : k < 16) : regOfNumber (BitVec.ofNat 4 k) ≠ .cmd := by
  rw [Ne, regOfNumber_eq_cmd_iff, ← BitVec.toNat_inj, BitVec.toNat_ofNat, Nat.mod_eq_of_lt h16]
  exact Nat.ne_of_gt h0

theorem writeReg_setPort (s : State) (rest : List Input) (a : Option Word) (r : Reg) (v : Word) :
    (s.setPort rest a).writeReg r v = (s.writeReg r v).setPort rest a := by
  cases r <;> rfl

/-- Register writes and then a write of CMD end in the command that it starts, with the values stored. -/
theorem run_registerWrites {k : Nat} {ws : List Word} (w : Word) (rest : List Input) (hk : 0 < k)
    (hlast : k + ws.length ≤ 16) (s : State) (a : Option Word) :
    core.run (ws.length + 1) (s.setPort (registerWrites k ws ++ .write 0x0 w :: rest) a) =
      startCommand w ((storeRegisters k ws s).setPort rest none) := by
  induction ws generalizing k s a with
  | nil => exact (run_one _).trans (step_of_cmdWrite rfl)
  | cons v ws ih =>
    rw [List.length_cons] at hlast
    have hstep : step (s.setPort (registerWrites k (v :: ws) ++ .write 0x0 w :: rest) a) =
        .next ((s.writeReg (regOfNumber (BitVec.ofNat 4 k)) v).setPort
          (registerWrites (k + 1) ws ++ .write 0x0 w :: rest) none) :=
      (step_of_registerWrite rfl (regOfNumber_ofNat_ne_cmd hk (by omega))).trans
        (congrArg _ (writeReg_setPort s _ none _ v))
    exact (run_of_step_next _ hstep).trans (ih (Nat.succ_pos k) (by omega) _ _)

theorem storeRegisters_one_eq_withOperands (s : State) (ws : List Word) (h : ws.length ≤ 5) :
    storeRegisters 1 ws s = s.withOperands ws :=
  match ws, h with
  | [], _ | [_], _ | [_, _], _ | [_, _, _], _ | [_, _, _, _], _ | [_, _, _, _, _], _ => rfl

/-! ### The operands of a line -/

/-- Splitting a number that is not negative over two registers gives the two words of the address. -/
theorem wordOfInt_halves {v : Int} (h : 0 ≤ v) :
    wordOfInt (v % 65536) = BitVec.ofNat 16 v.toNat ∧ wordOfInt (v / 65536) = BitVec.ofNat 16 (v.toNat / 65536) := by
  obtain ⟨n, rfl⟩ := Int.eq_ofNat_of_zero_le h
  constructor
  · apply BitVec.eq_of_toNat_eq
    simp only [wordOfInt, BitVec.toNat_ofInt, BitVec.toNat_ofNat, Int.toNat_natCast]
    omega
  · exact BitVec.ofInt_natCast 16 (n / 65536)

/-- The ARG writes of a line store the words of its operands, if no address is negative. -/
theorem argWrites_eq_registerWrites (k : Nat) {ks : List OperandKind} {vs : List Int}
    (h : ∀ n v, (OperandKind.addr n, v) ∈ ks.zip vs → 0 ≤ v) :
    argWrites k ks vs = registerWrites k (operandWords ks vs) := by
  induction ks generalizing k vs with
  | nil => rfl
  | cons kind ks ih =>
    cases vs with
    | nil => cases kind <;> rfl
    | cons v vs =>
      have htail (k : Nat) : argWrites k ks vs = registerWrites k (operandWords ks vs) :=
        ih k fun n u hu => h n u (List.mem_cons_of_mem _ hu)
      cases kind with
      | addr n =>
        obtain ⟨hlo, hhi⟩ := wordOfInt_halves (h n v List.mem_cons_self)
        simp only [argWrites, operandWords, registerWrites, htail, hlo, hhi]
      | byte | idx | coord | raw16 => simp only [argWrites, operandWords, registerWrites, htail, wordOfInt]

/-- The number of ARG registers an operand takes (30_encoding.md R84). -/
def operandRegisters : OperandKind → Nat
  | .addr _ => 2
  | .byte | .idx _ | .coord | .raw16 => 1

theorem operandWords_length_le (ks : List OperandKind) (vs : List Int) :
    (operandWords ks vs).length ≤ (ks.map operandRegisters).sum := by
  induction ks generalizing vs with
  | nil => exact Nat.zero_le _
  | cons kind ks ih =>
    cases vs with
    | nil => cases kind <;> exact Nat.zero_le _
    | cons v vs =>
      have := ih vs
      cases kind <;> simp only [operandWords, List.length_cons, List.map_cons, List.sum_cons, operandRegisters] <;>
        omega

/-- No command has more operands than there are ARG registers. -/
theorem operandWords_length_le_five (i : Instr) (vs : List Int) : (operandWords i.operands vs).length ≤ 5 :=
  (operandWords_length_le i.operands vs).trans (by cases i <;> decide)

/-- The transactions of a line run its command with its operands, if no address is negative. -/
theorem run_assembleLine {l : Line} (s : State) (rest : List Input)
    (h : ∀ n v, (OperandKind.addr n, v) ∈ l.instr.operands.zip l.ops → 0 ≤ v) :
    core.run ((operandWords l.instr.operands l.ops).length + 1) { s with inputs := assembleLine l ++ rest } =
      exec l.instr { s.withOperands (operandWords l.instr.operands l.ops) with
        cmd := encode l.instr, inputs := rest, response := none } := by
  have hlen := operandWords_length_le_five l.instr l.ops
  have hrun := run_registerWrites (encode l.instr) rest Nat.one_pos (by omega) s s.response
    (ws := operandWords l.instr.operands l.ops)
  rw [storeRegisters_one_eq_withOperands _ _ hlen, startCommand_of_decode (decode_encode l.instr)] at hrun
  rw [assembleLine, argWrites_eq_registerWrites 1 h, List.append_assoc]
  exact hrun

theorem address_nonneg_of_wellFormed {l : Line} (h : l.wellFormed = true) {n : Nat} {v : Int}
    (hv : (OperandKind.addr n, v) ∈ l.instr.operands.zip l.ops) : 0 ≤ v := by
  have hall := List.all_eq_true.1 (Bool.and_eq_true_iff.1 h).2 _ hv
  simp only [OperandKind.writable, Bool.and_eq_true, decide_eq_true_eq] at hall
  exact hall.1

/-- The line `WR16 a, v` (30_encoding.md R87). -/
def wr16Line (a v : Nat) : Line := ⟨.wr16, [a, v]⟩

theorem run_wr16Line (s : State) (rest : List Input) (a v : Nat) :
    core.run 4 { s with inputs := assembleLine (wr16Line a v) ++ rest } =
      exec .wr16 { s with
        cmd := 0x0005, arg0 := BitVec.ofNat 16 a, arg1 := BitVec.ofNat 16 (a / 65536), arg2 := BitVec.ofNat 16 v,
        inputs := rest, response := none } := by
  have haddr : ∀ n u, (OperandKind.addr n, u) ∈ Instr.wr16.operands.zip (wr16Line a v).ops → 0 ≤ u := by
    simp [Instr.operands, wr16Line]
  rw [← BitVec.ofInt_natCast 16 v]
  exact run_assembleLine (l := wr16Line a v) s rest haddr

end Sys2Proof.Machine

/-! SUPPORT. Storing a descriptor word by word (20_memory.md R61; 30_encoding.md R89). -/

namespace Sys2Proof.Machine

/-- The transactions of `WR16 a, v` inside `MEM` store the word at the address and report no error. -/
theorem run_wr16Line_stores {s : State} {rest : List Input} {a v : Nat} (ha : a + 2 ≤ Config.memSize)
    (h : s.inputs = assembleLine (wr16Line a v) ++ rest) :
    ∃ t, core.run 4 s = .next t ∧ t.inputs = rest ∧ t.mem = s.mem.write16 a (BitVec.ofNat 16 v) ∧
      t.status = 0x0000 := by
  have haddr : addrOperand (BitVec.ofNat 16 a) (BitVec.ofNat 16 (a / 65536)) = a := by
    simp only [addrOperand, BitVec.toNat_ofNat, Config.memSize] at ha ⊢
    omega
  have hrun := run_wr16Line s rest a v
  rw [← h, exec_wr16_of_legal (by simpa only [State.address, haddr] using ha)] at hrun
  refine ⟨_, hrun, rfl, ?_, rfl⟩
  simp only [State.address, haddr]

/-- The four words of a descriptor, stored in order from address `d` on. -/
def writeDescriptor (d : Nat) (x y bmp flags : Word) (m : Memory) : Memory :=
  (((m.write16 d x).write16 (d + 2) y).write16 (d + 4) bmp).write16 (d + 6) flags

theorem writeDescriptor_writesOnly (d : Nat) (x y bmp flags : Word) :
    WritesOnly (fun a => d ≤ a ∧ a < d + 8) (writeDescriptor d x y bmp flags) := by
  have hword (k : Nat) (v : Word) (hk : k + 2 ≤ 8) :
      WritesOnly (fun a => d ≤ a ∧ a < d + 8) fun m => m.write16 (d + k) v := .write16 (by omega) (by omega)
  exact (hword 6 flags (by omega)).comp ((hword 4 bmp (by omega)).comp
    ((hword 2 y (by omega)).comp (hword 0 x (by omega))))

theorem read16_writeDescriptor (d : Nat) (x y bmp flags : Word) (m : Memory) :
    (writeDescriptor d x y bmp flags m).read16 d = x ∧ (writeDescriptor d x y bmp flags m).read16 (d + 2) = y ∧
      (writeDescriptor d x y bmp flags m).read16 (d + 4) = bmp ∧
      (writeDescriptor d x y bmp flags m).read16 (d + 6) = flags := by
  simp [writeDescriptor, Memory.read16_write16_outside]

/-- The fields of a descriptor in its four words (20_memory.md R61). -/
theorem descRead_eq_of_words {m : Memory} {n : Nat} {x y bmp flags : Word} (hx : m.read16 (descAddr n) = x)
    (hy : m.read16 (descAddr n + 2) = y) (hbmp : m.read16 (descAddr n + 4) = bmp)
    (hflags : m.read16 (descAddr n + 6) = flags) :
    descRead m n = ⟨x.toInt, y.toInt, (loByte bmp).toNat, (loNibble (hiByte bmp)).toNat, (loByte flags).getLsbD 0,
      (loByte flags).getLsbD 1, (loByte flags).getLsbD 2, (loByte flags).extractLsb' 3 2⟩ := by
  have hindex : loByte bmp = m.read (descAddr n + 4) := by rw [← hbmp, Memory.read16, loByte_append]
  have hpal : hiByte bmp = m.read (descAddr n + 5) := by rw [← hbmp, Memory.read16, hiByte_append]
  have hflag : loByte flags = m.read (descAddr n + 6) := by rw [← hflags, Memory.read16, loByte_append]
  rw [hindex, hpal, hflag, ← hx, ← hy]
  rfl

/-! ### The fields that the operands of DESC fill -/

theorem toInt_wordOfInt {v : Int} (hlo : -32768 ≤ v) (hhi : v < 32768) : (wordOfInt v).toInt = v :=
  BitVec.toInt_ofInt_eq_self (by decide) hlo hhi

theorem toNat_loByte_ofNat (v : Nat) : (loByte (BitVec.ofNat 16 v)).toNat = v % 256 := by
  simp only [loByte, BitVec.extractLsb'_toNat, BitVec.toNat_ofNat, Nat.shiftRight_zero]
  omega

theorem toNat_loNibble_hiByte_ofNat (v : Nat) : (loNibble (hiByte (BitVec.ofNat 16 v))).toNat = v / 256 % 16 := by
  simp only [loNibble, hiByte, BitVec.extractLsb'_toNat, BitVec.toNat_ofNat, Nat.shiftRight_eq_div_pow]
  omega

theorem getLsbD_loByte_ofNat (v : Nat) {i : Nat} (hi : i < 8) :
    (loByte (BitVec.ofNat 16 v)).getLsbD i = v.testBit i := by
  rw [loByte, BitVec.getLsbD_extractLsb', BitVec.getLsbD_ofNat]
  simp [hi, show i < 16 by omega]

theorem sizeField_loByte_ofNat (v : Nat) :
    (loByte (BitVec.ofNat 16 v)).extractLsb' 3 2 = BitVec.ofNat 2 (v / 8) := by
  apply BitVec.eq_of_toNat_eq
  rw [BitVec.extractLsb'_toNat, toNat_loByte_ofNat, Nat.shiftRight_eq_div_pow, BitVec.toNat_ofNat]
  omega

/-- The expansion of DESC is four WR16 lines (30_encoding.md R89). -/
theorem assemblePseudo_desc (n idx pal flags : Nat) (x y : Int) :
    assemblePseudo (.desc n x y idx pal flags) =
      assembleLine (wr16Line (descAddr n) (wordOfInt x).toNat) ++
        (assembleLine (wr16Line (descAddr n + 2) (wordOfInt y).toNat) ++
          (assembleLine (wr16Line (descAddr n + 4) (idx + 256 * pal)) ++
            assembleLine (wr16Line (descAddr n + 6) flags))) := by
  simp [assemblePseudo, expandPseudo, wr16Line]

/-- The 16 transactions of DESC store the descriptor's four words. -/
theorem run_desc_stores {s : State} {rest : List Input} {n : Nat} (idx pal flags : Nat) (x y : Int) (hn : n < 128)
    (h : s.inputs = assemblePseudo (.desc n x y idx pal flags) ++ rest) :
    ∃ t, core.run 16 s = .next t ∧ t.inputs = rest ∧ t.status = 0x0000 ∧
      t.mem = writeDescriptor (descAddr n) (wordOfInt x) (wordOfInt y) (BitVec.ofNat 16 (idx + 256 * pal))
        (BitVec.ofNat 16 flags) s.mem := by
  have hmem (k : Nat) (hk : k + 2 ≤ 8) : descAddr n + k + 2 ≤ Config.memSize := by
    have := descAddr_range hn
    simp only [Config.memSize]
    omega
  simp only [assemblePseudo_desc, List.append_assoc] at h
  obtain ⟨t₁, hrun₁, hin₁, hmem₁, -⟩ := run_wr16Line_stores (hmem 0 (by omega)) h
  obtain ⟨t₂, hrun₂, hin₂, hmem₂, -⟩ := run_wr16Line_stores (hmem 2 (by omega)) hin₁
  obtain ⟨t₃, hrun₃, hin₃, hmem₃, -⟩ := run_wr16Line_stores (hmem 4 (by omega)) hin₂
  obtain ⟨t₄, hrun₄, hin₄, hmem₄, hstatus⟩ := run_wr16Line_stores (hmem 6 (by omega)) hin₃
  refine ⟨t₄, ?_, hin₄, hstatus, ?_⟩
  · calc core.run 16 s = core.run 12 t₁ := run_add_of_run_next 12 hrun₁
      _ = core.run 8 t₂ := run_add_of_run_next 8 hrun₂
      _ = core.run 4 t₃ := run_add_of_run_next 4 hrun₃
      _ = .next t₄ := hrun₄
  · rw [hmem₄, hmem₃, hmem₂, hmem₁, BitVec.ofNat_toNat, BitVec.setWidth_eq, BitVec.ofNat_toNat, BitVec.setWidth_eq]
    rfl

end Sys2Proof.Machine

/-! The statements of the assembler (30_encoding.md R87, R89). -/

namespace Sys2Proof.Machine

/-- Settles O53: the ARG writes store the operand words in registers 1 to 5, and the last write starts the command. -/
theorem assembledLinesRunTheirCommand : Obligations.AssembledLinesRunTheirCommand := by
  refine ⟨fun l s rest hl => run_assembleLine s rest fun n v => address_nonneg_of_wellFormed hl,
    fun s rest a v _ _ => run_wr16Line s rest a v, fun s rest x y w h c => ?_⟩
  have hcoords : ∀ n v, (OperandKind.addr n, v) ∈ Instr.rect.operands.zip [x, y, w, h, c] → 0 ≤ v := by
    simp [Instr.operands]
  exact run_assembleLine (l := ⟨.rect, [x, y, w, h, c]⟩) s rest hcoords

/-- Settles O54: DESC stores four words, whose bits are the fields of the descriptor. -/
theorem descPseudoWritesDescriptor : Obligations.DescPseudoWritesDescriptor := by
  intro s rest n idx pal flags x y hn hidx hpal _ hxlo hxhi hylo hyhi
  obtain ⟨t, hrun, hin, hstatus, hmem⟩ := run_desc_stores (rest := rest)
    (s := { s with inputs := assemblePseudo (.desc n x y idx pal flags) ++ rest }) idx pal flags x y hn rfl
  refine ⟨t, hrun, ?_, fun a ha => ?_, hin, hstatus⟩
  · obtain ⟨hx, hy, hbmp, hflags⟩ := read16_writeDescriptor (descAddr n) (wordOfInt x) (wordOfInt y)
      (BitVec.ofNat 16 (idx + 256 * pal)) (BitVec.ofNat 16 flags) s.mem
    have hindex : (idx + 256 * pal) % 256 = idx := by omega
    have hpalette : (idx + 256 * pal) / 256 % 16 = pal := by omega
    rw [hmem, descRead_eq_of_words hx hy hbmp hflags, toInt_wordOfInt hxlo hxhi, toInt_wordOfInt hylo hyhi,
      toNat_loByte_ofNat, toNat_loNibble_hiByte_ofNat, hindex, hpalette, getLsbD_loByte_ofNat flags (by decide),
      getLsbD_loByte_ofNat flags (by decide), getLsbD_loByte_ofNat flags (by decide), sizeField_loByte_ofNat]
  · rw [hmem]
    exact (writeDescriptor_writesOnly (descAddr n) _ _ _ _).frame ha s.mem

end Sys2Proof.Machine

/-! SUPPORT. The range check the memory commands share, what a storing command leaves unchanged, and the elements of
the cleared `MEM` (40_memory_commands.md R100, R101, R103). -/

namespace Sys2Proof.Machine

/-! ### The range check -/

theorem operandAddress_eq (s : State) : operandAddress s = s.address := rfl

/-- A memory command reports its address operand exactly when the access leaves `MEM` (40_memory_commands.md R101):
the address is its first operand, and no later one is an address. -/
theorem badAddress_iff {i : Instr} {n : Nat}
    (hi : (i, n) ∈ ([(.rd8, 1), (.wr8, 1), (.rd16, 2), (.wr16, 2)] : List (Instr × Nat))) (s : State) :
    firstBadOperand i.operands s.args = some .address ↔ ¬ s.address + n ≤ Config.memSize := by
  simp only [List.mem_cons, Prod.mk.injEq, List.not_mem_nil, or_false] at hi
  rcases hi with ⟨rfl, rfl⟩ | ⟨rfl, rfl⟩ | ⟨rfl, rfl⟩ | ⟨rfl, rfl⟩
  · rw [badOperand_rd8]; split_ifs <;> simp_all
  · rw [badOperand_wr8]; split_ifs <;> simp_all
  · rw [badOperand_rd16]; split_ifs <;> simp_all
  · rw [badOperand_wr16]; split_ifs <;> simp_all

/-- Only a bad address is reported as ADDR_RANGE (60_exceptions.md R220). -/
theorem exec_status_ne_addrRange {i : Instr} {s : State}
    (h : firstBadOperand i.operands s.args ≠ some .address) : ∃ t, exec i s = .next t ∧ t.status ≠ 0x0031 := by
  rcases runChecked_cases (exec_eq_runChecked i s).symm with ⟨-, hexec⟩ | ⟨hbad, -⟩ | ⟨-, hexec⟩
  · exact ⟨_, hexec, (by decide : (0x0000 : Word) ≠ 0x0031)⟩
  · exact absurd hbad h
  · exact ⟨_, hexec, (by decide : (0x0021 : Word) ≠ 0x0031)⟩

/-! ### Storing commands -/

/-- A command with legal operands whose effect is a store changes `MEM` and STATUS alone. -/
theorem exec_store {i : Instr} {s : State} {m : Memory} (hlegal : firstBadOperand i.operands s.args = none)
    (heffect : commandEffect i s = .store m) :
    ∃ t, exec i s = .next t ∧ t.mem = m ∧ SameOperands s t ∧ SameResults s t ∧ t.status = 0x0000 := by
  have hexec := exec_of_legal hlegal
  rw [heffect] at hexec
  exact ⟨_, hexec, rfl, exec_sameOperands hexec, ⟨rfl, rfl, rfl⟩, rfl⟩

theorem loByte_eq_ofNat (v : Word) : loByte v = BitVec.ofNat 8 v.toNat := rfl

/-! ### The cleared `MEM` -/

@[simp] theorem Memory.read16_cleared (a : Nat) : Memory.cleared.read16 a = 0x0000 := by
  rw [Memory.read16, Memory.read_cleared, Memory.read_cleared]
  rfl

theorem palColor_cleared (p e : Nat) : palColor Memory.cleared p e = 0x0000 := Memory.read16_cleared _

theorem pixel_cleared (x y : Nat) : pixel Memory.cleared x y = 0x0000 := Memory.read16_cleared _

theorem bmpGet_cleared (b x y : Nat) : bmpGet Memory.cleared b x y = 0 := by
  simp only [bmpGet, Memory.read_cleared]
  split <;> rfl

theorem descRead_cleared (n : Nat) : descRead Memory.cleared n = ⟨0, 0, 0, 0, false, false, false, 0⟩ :=
  descRead_eq_of_words (Memory.read16_cleared _) (Memory.read16_cleared _) (Memory.read16_cleared _)
    (Memory.read16_cleared _)

end Sys2Proof.Machine

/-! The statements of the memory and system commands (40_memory_commands.md R101 to R107). -/

namespace Sys2Proof.Machine

/-- Settles O11: the address is the operand checked first, and nothing else is reported as ADDR_RANGE. -/
theorem memoryCommandsCheckRange : Obligations.MemoryCommandsCheckRange := by
  intro i n hi s
  exact ⟨fun hout => exec_of_bad ((badAddress_iff hi s).2 (Nat.not_le.2 hout)),
    fun hin => exec_status_ne_addrRange fun hbad => (badAddress_iff hi s).1 hbad hin⟩

/-- Settles O5: the effect of NOP stores `MEM` as it was. -/
theorem nopOnlyClearsStatus : Obligations.NopOnlyClearsStatus :=
  ⟨rfl, rfl, fun _ => exec_of_legal rfl⟩

/-- Settles O6: CLEAR has no operand to refuse, and every element of the cleared `MEM` is made of zero bytes. -/
theorem clearZeroesMemory : Obligations.ClearZeroesMemory := by
  refine ⟨rfl, fun s => ?_⟩
  obtain ⟨t, hexec, hmem, hoperands, hresults, hstatus⟩ := exec_store (i := .clear) (s := s) rfl rfl
  refine ⟨t, hexec, ?_⟩
  rw [hmem]
  exact ⟨Memory.read_cleared, palColor_cleared, bmpGet_cleared, descRead_cleared, pixel_cleared, hoperands, hresults,
    hstatus⟩

/-- Settles O7: the answer is the byte at a legal address, and the range check refuses every other address. -/
theorem rd8ReadsOneByte : Obligations.Rd8ReadsOneByte :=
  ⟨rfl, fun s => ⟨exec_rd8_of_legal, (memoryCommandsCheckRange .rd8 1 (by simp) s).1⟩⟩

/-- Settles O8: the address is checked before the byte, and the store is of one byte. -/
theorem wr8WritesOneByte : Obligations.Wr8WritesOneByte := by
  refine ⟨rfl, fun s => ⟨fun ha hbyte => ?_, fun ha hbig => ?_, (memoryCommandsCheckRange .wr8 1 (by simp) s).1⟩⟩
  · obtain ⟨t, hexec, hmem, hrest⟩ := exec_store (legal_wr8_iff.2 ⟨ha, hbyte⟩) rfl
    have hread (a : Nat) : t.mem.read a = if a = operandAddress s then loByte s.arg2 else s.mem.read a := by
      rw [hmem, Memory.read_write, operandAddress_eq]
    refine ⟨t, hexec, ?_, fun a hother => ?_, hrest⟩
    · rw [hread, if_pos rfl, loByte_eq_ofNat]
    · rw [hread, if_neg hother]
  · have hbad : firstBadOperand Instr.wr8.operands s.args = some .value := by
      rw [badOperand_wr8, ← operandAddress_eq, if_pos ha, if_neg (Nat.not_le.2 hbig)]
    exact exec_of_bad hbad

/-- Settles O9: `MemRead(a, 2)` is the byte after the address above the byte at it; the range check refuses the rest. -/
theorem rd16ReadsLittleEndian : Obligations.Rd16ReadsLittleEndian :=
  ⟨rfl, fun s => ⟨exec_rd16_of_legal, (memoryCommandsCheckRange .rd16 2 (by simp) s).1⟩⟩

/-- Settles O10: the store is one `MemWrite` of two bytes, and at a pixel's address `Plot` is that same write. -/
theorem wr16WritesLittleEndian : Obligations.Wr16WritesLittleEndian := by
  refine ⟨rfl, fun s => ⟨fun ha => ?_, (memoryCommandsCheckRange .wr16 2 (by simp) s).1⟩⟩
  obtain ⟨t, hexec, hmem, hrest⟩ := exec_store (legal_wr16_iff.2 ha) rfl
  have hread (a : Nat) : t.mem.read a = if a = operandAddress s then loByte s.arg2
      else if a = operandAddress s + 1 then hiByte s.arg2 else s.mem.read a := by
    rw [hmem, Memory.read_write16, operandAddress_eq]
  refine ⟨t, hexec, ?_, ?_, fun a hother => ?_, fun x y hx hy hpixel => ?_, hrest⟩
  · rw [hread, if_pos rfl, loByte]
  · rw [hread, if_neg (Nat.succ_ne_self _), if_pos rfl, hiByte]
  · obtain ⟨hlo, hhi⟩ := not_or.1 hother
    rw [hread, if_neg hlo, if_neg hhi]
  · rw [hmem, plot_onScreen hx hy, fbAddr_eq, ← hpixel, operandAddress_eq]

end Sys2Proof.Machine

/-! SUPPORT. The packed color as three 5-bit fields, and the two codec commands on legal operands (41_color_codec.md
R120, R124, R125). -/

namespace Sys2Proof.Machine

/-! ### Packing and unpacking -/

/-- The fields of a packed color do not overlap, so their `|||` is a sum: each shift by the width of a channel makes
room for the next one. -/
theorem toNat_packColor {r g b : Word} (hr : r.toNat ≤ 255) (hg : g.toNat ≤ 255) (hb : b.toNat ≤ 255) :
    (packColor r g b).toNat = 32768 + r.toNat / 8 * 1024 + g.toNat / 8 * 32 + b.toNat / 8 := by
  have hfield {v : Nat} (hv : v ≤ 255) : v / 8 < 2 ^ 5 := by omega
  have hr10 : (r.toNat / 8) <<< 10 % 65536 = (r.toNat / 8) <<< 10 := Nat.mod_eq_of_lt (by omega)
  have hg5 : (g.toNat / 8) <<< 5 % 65536 = (g.toNat / 8) <<< 5 := Nat.mod_eq_of_lt (by omega)
  calc (packColor r g b).toNat
      = 1 <<< 15 ||| (r.toNat / 8) <<< 10 ||| (g.toNat / 8) <<< 5 ||| b.toNat / 8 := by
        simp [packColor, Nat.shiftRight_eq_div_pow, hr10, hg5]
    _ = ((1 <<< 5 ||| r.toNat / 8) <<< 5 ||| g.toNat / 8) <<< 5 ||| b.toNat / 8 := by
        simp only [Nat.shiftLeft_or_distrib, ← Nat.shiftLeft_add]
    _ = ((1 <<< 5 + r.toNat / 8) <<< 5 + g.toNat / 8) <<< 5 + b.toNat / 8 := by
        rw [Nat.shiftLeft_add_eq_or_of_lt (hfield hb), Nat.shiftLeft_add_eq_or_of_lt (hfield hg),
          Nat.shiftLeft_add_eq_or_of_lt (hfield hr)]
    _ = _ := by omega

/-- ENCODE sets the opacity bit of every color (41_color_codec.md R126). -/
theorem isOpaque_packColor (r g b : Word) : isOpaque (packColor r g b) = true := by
  simp [isOpaque, packColor]

theorem toNat_unpackChannel (c : Word) (lo : Nat) : (unpackChannel c lo).toNat = c.toNat / 2 ^ lo % 32 * 8 := by
  simp only [unpackChannel, Config.chBits, BitVec.toNat_shiftLeft, BitVec.toNat_setWidth, BitVec.extractLsb'_toNat,
    Nat.shiftRight_eq_div_pow, Nat.shiftLeft_eq]
  omega

/-- What DECODE returns, ENCODE accepts. -/
theorem unpackChannel_le (c : Word) (lo : Nat) : (unpackChannel c lo).toNat ≤ 255 := by
  rw [toNat_unpackChannel]
  omega

theorem unpackChannel_eq_ofNat (c : Word) (lo : Nat) :
    unpackChannel c lo = BitVec.ofNat 16 (c.toNat / 2 ^ lo % 32 * 8) := by
  rw [← toNat_unpackChannel, BitVec.ofNat_toNat, BitVec.setWidth_eq]

/-- A channel without its low 3 bits. -/
theorem toNat_truncateChannel (v : Word) : ((v >>> 3) <<< 3).toNat = v.toNat / 8 * 8 := by
  simp only [BitVec.toNat_shiftLeft, BitVec.toNat_ushiftRight, Nat.shiftRight_eq_div_pow, Nat.shiftLeft_eq]
  omega

/-- Setting the opacity bit keeps the 15 bits below it. -/
theorem toNat_or_opacityBit (c : Word) : (c ||| 0x8000).toNat = 32768 + c.toNat % 32768 := by
  have hzero : ∀ i : Fin 15, (0x8000 : Word)[i.val] = false := by decide
  have hbits : c ||| 0x8000 = 1#1 ++ c.extractLsb' 0 15 := by
    ext i hi
    rw [BitVec.getElem_append, BitVec.getElem_or]
    split
    · next hlow =>
      rw [hzero ⟨i, hlow⟩, Bool.or_false, BitVec.getElem_extractLsb', Nat.zero_add, BitVec.getLsbD_eq_getElem]
    · next hhigh =>
      obtain rfl : i = 15 := by omega
      simp
  have hlow : (c.extractLsb' 0 15).toNat = c.toNat % 32768 := by simp [BitVec.extractLsb'_toNat]
  rw [hbits, BitVec.toNat_append, hlow, ← Nat.shiftLeft_add_eq_or_of_lt (Nat.mod_lt _ (by decide))]
  rfl

/-- Unpacking the fields of a packed color gives each channel without its low 3 bits. -/
theorem unpackChannel_packColor {r g b : Word} (hr : r.toNat ≤ 255) (hg : g.toNat ≤ 255) (hb : b.toNat ≤ 255) :
    unpackChannel (packColor r g b) 10 = (r >>> 3) <<< 3 ∧ unpackChannel (packColor r g b) 5 = (g >>> 3) <<< 3 ∧
      unpackChannel (packColor r g b) 0 = (b >>> 3) <<< 3 := by
  refine ⟨?_, ?_, ?_⟩ <;> apply BitVec.eq_of_toNat_eq <;>
    rw [toNat_unpackChannel, toNat_packColor hr hg hb, toNat_truncateChannel] <;> omega

/-- Packing the unpacked fields of a color gives the color with the opacity bit set. -/
theorem packColor_unpackChannel (c : Word) :
    packColor (unpackChannel c 10) (unpackChannel c 5) (unpackChannel c 0) = c ||| 0x8000 := by
  apply BitVec.eq_of_toNat_eq
  rw [toNat_packColor (unpackChannel_le c 10) (unpackChannel_le c 5) (unpackChannel_le c 0), toNat_or_opacityBit]
  simp only [toNat_unpackChannel]
  omega

/-! ### The two commands -/

variable {s : State}

theorem legal_encode_iff : firstBadOperand Instr.encode.operands s.args = none ↔
    s.arg0.toNat ≤ 255 ∧ s.arg1.toNat ≤ 255 ∧ s.arg2.toNat ≤ 255 := by
  rw [badOperand_encode]
  split_ifs <;> simp_all

theorem badOperand_encode_eq_value (h : 255 < s.arg0.toNat ∨ 255 < s.arg1.toNat ∨ 255 < s.arg2.toNat) :
    firstBadOperand Instr.encode.operands s.args = some .value := by
  rw [badOperand_encode]
  split_ifs
  · omega
  all_goals rfl

theorem exec_encode_of_legal (h0 : s.arg0.toNat ≤ 255) (h1 : s.arg1.toNat ≤ 255) (h2 : s.arg2.toNat ≤ 255) :
    exec .encode s = .next { s with res0 := packColor s.arg0 s.arg1 s.arg2, status := 0x0000 } :=
  exec_of_legal (legal_encode_iff.2 ⟨h0, h1, h2⟩)

/-- The operand of DECODE is raw, so nothing is refused. -/
theorem exec_decode (s : State) : exec .decode s = .next { s with
    res0 := unpackChannel s.arg0 10, res1 := unpackChannel s.arg0 5, res2 := unpackChannel s.arg0 0,
    status := 0x0000 } :=
  exec_of_legal rfl

end Sys2Proof.Machine

/-! The statements of the color codec (41_color_codec.md R121 to R126). -/

namespace Sys2Proof.Machine

/-- Settles O16: each round trip of the commands is one of the two laws of `packColor` and `unpackChannel`. -/
theorem colorRoundTrips : Obligations.ColorRoundTrips := by
  refine ⟨fun s h0 h1 h2 => ?_, fun s => ?_⟩
  · obtain ⟨hr, hg, hb⟩ := unpackChannel_packColor h0 h1 h2
    refine ⟨_, exec_encode_of_legal h0 h1 h2, isOpaque_packColor _ _ _, ?_⟩
    rw [exec_decode, hr, hg, hb]
  · refine ⟨_, exec_decode s, ?_⟩
    rw [exec_encode_of_legal (unpackChannel_le _ _) (unpackChannel_le _ _) (unpackChannel_le _ _),
      packColor_unpackChannel]

/-- Settles O14: a legal ENCODE packs by sum, and its one check refuses a channel above 255. -/
theorem encodePacksChannels : Obligations.EncodePacksChannels := by
  refine ⟨rfl, fun s => ⟨fun h0 h1 h2 => ?_, fun hbig => exec_of_bad (badOperand_encode_eq_value hbig)⟩⟩
  rw [exec_encode_of_legal h0 h1 h2, ← toNat_packColor h0 h1 h2, BitVec.ofNat_toNat, BitVec.setWidth_eq]

/-- Settles O15. -/
theorem decodeUnpacksChannels : Obligations.DecodeUnpacksChannels := by
  refine ⟨rfl, fun s => ?_⟩
  simp only [exec_decode, unpackChannel_eq_ofNat, Nat.reducePow, Nat.div_one]

/-- Settles O17: the two commands at the channels and the colors of R122. -/
theorem namedColors : Obligations.NamedColors := by
  refine ⟨rfl, rfl, rfl, by decide, by decide, by decide, fun s hc => ?_, fun s hc => ?_,
    fun s h0 h1 h2 => ?_, fun s h0 h1 h2 => ?_⟩
  · rw [exec_decode, hc]; rfl
  · rw [exec_decode, hc]; rfl
  · rw [exec_encode_of_legal (by simp [h0]) (by simp [h1]) (by simp [h2]), h0, h1, h2]; rfl
  · rw [exec_encode_of_legal (by simp [h0]) (by simp [h1]) (by simp [h2]), h0, h1, h2]; rfl

end Sys2Proof.Machine

/-! SUPPORT. The check of commands that take no address, bitmap rows as bytes and as pixels, and the storage commands on
legal operands (20_memory.md R58 to R60; 42_sprite_palette.md R140 to R144). -/

namespace Sys2Proof.Machine

/-! ### Commands that take no address -/

theorem firstBadOperand_ne_address {ks : List OperandKind} (hks : ∀ n, .addr n ∉ ks) (args : List Word) :
    firstBadOperand ks args ≠ some .address := by
  induction ks generalizing args with
  | nil => simp
  | cons k ks ih =>
    have hrest (args : List Word) : firstBadOperand ks args ≠ some .address :=
      ih (fun n hn => hks n (List.mem_cons_of_mem _ hn)) args
    cases args with
    | nil => cases k <;> simp [firstBadOperand]
    | cons w args =>
      cases k with
      | addr n => exact absurd List.mem_cons_self (hks n)
      | byte => rw [firstBadOperand_byte]; split_ifs <;> simp [hrest]
      | idx b => rw [firstBadOperand_idx]; split_ifs <;> simp [hrest]
      | coord | raw16 => exact hrest args

/-- A command without an address operand refuses its operands with ARG_RANGE (60_exceptions.md R220). -/
theorem exec_argRange {i : Instr} {s : State} (hi : ∀ n, .addr n ∉ i.operands)
    (hbad : firstBadOperand i.operands s.args ≠ none) : exec i s = .next { s with status := 0x0021 } := by
  rcases runChecked_cases (exec_eq_runChecked i s).symm with ⟨hlegal, -⟩ | ⟨haddress, -⟩ | ⟨-, hexec⟩
  · exact absurd hlegal hbad
  · exact absurd haddress (firstBadOperand_ne_address hi _)
  · exact hexec

/-! ### Nibbles -/

@[simp] theorem hiNibble_append_loNibble (b : Byte) : (hiNibble b ++ loNibble b : Byte) = b :=
  BitVec.extractLsb'_append_extractLsb' (w := 4) (len := 4)

/-- A field of a field is a field (00_scope.md R8). -/
theorem extractLsb'_extractLsb' {k m n : Nat} (w : BitVec k) (a b : Nat) (h : b + n ≤ m) :
    (w.extractLsb' a m).extractLsb' b n = w.extractLsb' (a + b) n := by
  ext i hi
  simp [show b + i < m by omega, Nat.add_assoc]

/-- The nibbles of the two bytes of a 16-bit value are its four 4-bit fields, the lowest first. -/
theorem nibbles_of_word (w : Word) :
    loNibble (loByte w) = w.extractLsb' 0 4 ∧ hiNibble (loByte w) = w.extractLsb' 4 4 ∧
    loNibble (hiByte w) = w.extractLsb' 8 4 ∧ hiNibble (hiByte w) = w.extractLsb' 12 4 :=
  ⟨extractLsb'_extractLsb' w 0 0 (by decide), extractLsb'_extractLsb' w 0 4 (by decide),
    extractLsb'_extractLsb' w 8 0 (by decide), extractLsb'_extractLsb' w 8 4 (by decide)⟩

/-! ### Bitmap rows (20_memory.md R59, R60) -/

theorem bmpRowAddr_eq (s y : Nat) : bmpRowAddr s y = 0x1DC00 + 32 * s + 4 * y := rfl

/-- A byte of a bitmap row is its two pixels, the one of even column in the low nibble. -/
theorem read_bmpRow (m : Memory) (s y j : Nat) :
    m.read (bmpRowAddr s y + j) = bmpGet m s (2 * j + 1) y ++ bmpGet m s (2 * j) y := by
  have hodd : bmpByteAddr s (2 * j + 1) y = bmpRowAddr s y + j := by rw [bmpByteAddr]; omega
  have heven : bmpByteAddr s (2 * j) y = bmpRowAddr s y + j := by rw [bmpByteAddr]; omega
  simp only [bmpGet, hodd, heven]
  rw [if_neg (by omega), if_pos (by omega), hiNibble_append_loNibble]

/-- What SPR_SETROW does to every byte: the four of the row are those of the two words. -/
theorem read_bmpSetRow (s y : Nat) (lo hi : Word) (m : Memory) (a : Nat) :
    (bmpSetRow s y lo hi m).read a =
      if bmpRowAddr s y ≤ a ∧ a < bmpRowAddr s y + 4 then
        [loByte lo, hiByte lo, loByte hi, hiByte hi].getD (a - bmpRowAddr s y) 0x00
      else m.read a :=
  Memory.read_writeBytes m (bmpRowAddr s y) (littleEndian [lo, hi]) a

/-- Pixel `x` of the row that two words hold: nibble `x`, the low word first (42_sprite_palette.md R142). -/
def rowPixel (lo hi : Word) (x : Nat) : BitVec 4 :=
  if x < 4 then lo.extractLsb' (4 * x) 4 else hi.extractLsb' (4 * (x - 4)) 4

theorem bmpGet_bmpSetRow {s y : Nat} {lo hi : Word} {m : Memory} {x : Nat} (hx : x < 8) :
    bmpGet (bmpSetRow s y lo hi m) s x y = rowPixel lo hi x := by
  obtain ⟨hlo0, hlo1, hlo2, hlo3⟩ := nibbles_of_word lo
  obtain ⟨hhi0, hhi1, hhi2, hhi3⟩ := nibbles_of_word hi
  have hbyte : (bmpSetRow s y lo hi m).read (bmpByteAddr s x y) =
      [loByte lo, hiByte lo, loByte hi, hiByte hi].getD (x / 2) 0x00 := by
    rw [bmpByteAddr, read_bmpSetRow, if_pos (by omega), Nat.add_sub_cancel_left]
  rw [bmpGet, hbyte]
  match x, hx with
  | 0, _ => exact hlo0
  | 1, _ => exact hlo1
  | 2, _ => exact hlo2
  | 3, _ => exact hlo3
  | 4, _ => exact hhi0
  | 5, _ => exact hhi1
  | 6, _ => exact hhi2
  | 7, _ => exact hhi3

/-- A row stored one `BmpSet` at a time, pixel 0 first. -/
def bmpSetEach (s y : Nat) (v : Nat → BitVec 4) : Memory → Memory := loop 8 fun x => bmpSet s x y (v x)

theorem bmpGet_bmpSetEach {s y : Nat} {v : Nat → BitVec 4} {m : Memory} {x : Nat} (hx : x < 8) (hy : y < 8) :
    bmpGet (bmpSetEach s y v m) s x y = v x := by
  have hpasses : bmpGet (bmpSetEach s y v m) s x y = if x < 8 then v x else bmpGet m s x y := by
    refine loop_induction_on (P := fun k m' => bmpGet m' s x y = if x < k then v x else bmpGet m s x y) rfl
      fun k m' hk ih => ?_
    rw [bmpGet_bmpSet _ _ hk hx hy hy, ih]
    by_cases hxk : x = k
    · subst hxk; simp
    · simp only [hxk, false_and, and_false, if_false, show x < k + 1 ↔ x < k by omega]
  rw [hpasses, if_pos hx]

theorem read_bmpSetEach_outside {s y : Nat} {v : Nat → BitVec 4} {m : Memory} {a : Nat}
    (ha : ¬(bmpRowAddr s y ≤ a ∧ a < bmpRowAddr s y + 4)) : (bmpSetEach s y v m).read a = m.read a := by
  refine loop_induction (P := fun m' => m'.read a = m.read a) rfl fun x m' hx ih => ?_
  rw [read_bmpSet, if_neg (by rw [bmpByteAddr]; omega), ih]

/-- SPR_SETROW is eight `BmpSet`s (42_sprite_palette.md R142): the bytes of the row have the same pixels, and neither
writes any other byte. -/
theorem read_bmpSetRow_eq_bmpSetEach {s y : Nat} {lo hi : Word} {m : Memory} (hy : y < 8) (a : Nat) :
    (bmpSetRow s y lo hi m).read a = (bmpSetEach s y (rowPixel lo hi) m).read a := by
  by_cases ha : bmpRowAddr s y ≤ a ∧ a < bmpRowAddr s y + 4
  · obtain ⟨j, rfl⟩ := Nat.exists_eq_add_of_le ha.1
    have hj : j < 4 := by omega
    rw [read_bmpRow, read_bmpRow, bmpGet_bmpSetRow (by omega), bmpGet_bmpSetRow (by omega),
      bmpGet_bmpSetEach (by omega) hy, bmpGet_bmpSetEach (by omega) hy]
  · rw [read_bmpSetRow, if_neg ha, read_bmpSetEach_outside ha]

/-! ### Commands with legal operands -/

section

variable {s : State}

theorem legal_sprGet_iff : firstBadOperand Instr.sprGet.operands s.args = none ↔
    s.arg0.toNat < 256 ∧ s.arg1.toNat < 8 ∧ s.arg2.toNat < 8 := by
  rw [badOperand_sprGet]
  split_ifs <;> simp_all

theorem legal_palGet_iff : firstBadOperand Instr.palGet.operands s.args = none ↔
    s.arg0.toNat < 16 ∧ s.arg1.toNat < 16 := by
  rw [badOperand_palGet]
  split_ifs <;> simp_all

theorem exec_sprGet_of_legal (hbmp : s.arg0.toNat < 256) (hx : s.arg1.toNat < 8) (hy : s.arg2.toNat < 8) :
    exec .sprGet s = .next { s with
      res0 := (bmpGet s.mem s.arg0.toNat s.arg1.toNat s.arg2.toNat).setWidth 16, status := 0x0000 } :=
  exec_of_legal (legal_sprGet_iff.2 ⟨hbmp, hx, hy⟩)

theorem exec_palGet_of_legal (hpal : s.arg0.toNat < 16) (hentry : s.arg1.toNat < 16) :
    exec .palGet s = .next { s with
      res0 := palColor s.mem s.arg0.toNat s.arg1.toNat, status := 0x0000 } :=
  exec_of_legal (legal_palGet_iff.2 ⟨hpal, hentry⟩)

end

/-- A color index zero-extends to the operand it came from (42_sprite_palette.md R141). -/
theorem setWidth_nibble_of_lt {v : Word} (hv : v.toNat < 16) : (BitVec.ofNat 4 v.toNat).setWidth 16 = v := by
  apply BitVec.eq_of_toNat_eq
  rw [BitVec.toNat_setWidth, BitVec.toNat_ofNat]
  omega

end Sys2Proof.Machine

/-! The statements of sprite and palette storage (42_sprite_palette.md R140 to R144). -/

namespace Sys2Proof.Machine

/-- Settles O18: the store is one `BmpSet`, and the operand checks are the only reason to refuse. -/
theorem sprSetChangesOneNibble : Obligations.SprSetChangesOneNibble := by
  refine ⟨rfl, fun s => ⟨fun hbmp hx hy hv => ?_, fun hout => exec_argRange (by simp [Instr.operands])
    (mt legal_sprSet_iff.1 (by omega))⟩⟩
  obtain ⟨t, hexec, hmem, hrest⟩ := exec_store (legal_sprSet_iff.2 ⟨hbmp, hx, hy, hv⟩) rfl
  refine ⟨t, hexec, fun b x y hx' hy' => ?_, fun a hother => ?_, hrest⟩
  · rw [hmem, bmpGet_bmpSet _ _ hx hx' hy hy']
    rfl
  · rw [hmem, read_bmpSet, if_neg hother]

/-- Settles O19: the answer is `BmpGet` of the operands' pixel, which SPR_SET has just stored. -/
theorem sprGetReadsOneNibble : Obligations.SprGetReadsOneNibble := by
  refine ⟨rfl, fun s => ⟨exec_sprGet_of_legal, fun hout => exec_argRange (by simp [Instr.operands])
    (mt legal_sprGet_iff.1 (by omega))⟩, fun s t hbmp hx hy hv hset => ?_⟩
  obtain ⟨t', hexec, hpixels, -, hoperands, -⟩ := (sprSetChangesOneNibble.2 s).1 hbmp hx hy hv
  cases hexec.symm.trans hset
  obtain ⟨h0, h1, h2, -⟩ := State.args_eq_iff.1 hoperands.args
  rw [exec_sprGet_of_legal (by rwa [h0]) (by rwa [h1]) (by rwa [h2]), h0, h1, h2, hpixels _ _ _ hx hy,
    if_pos ⟨rfl, rfl, rfl⟩, setWidth_nibble_of_lt hv]

/-- Settles O20: the row read as bytes, as pixels, and as the outcome of eight `BmpSet`s. -/
theorem sprSetRowWritesFourBytes : Obligations.SprSetRowWritesFourBytes := by
  refine ⟨rfl, fun s => ⟨fun hbmp hy => ?_, fun hout => exec_argRange (by simp [Instr.operands])
    (mt legal_sprSetRow_iff.1 (by omega))⟩⟩
  obtain ⟨t, hexec, hmem, hrest⟩ := exec_store (legal_sprSetRow_iff.2 ⟨hbmp, hy⟩) rfl
  have hbyte (j : Nat) (hj : j < 4) : t.mem.read (bmpRowAddr s.arg0.toNat s.arg1.toNat + j) =
      [loByte s.arg2, hiByte s.arg2, loByte s.arg3, hiByte s.arg3].getD j 0x00 := by
    rw [hmem, read_bmpSetRow, if_pos (by omega), Nat.add_sub_cancel_left]
  have hpixel (x : Nat) (hx : x < 8) :
      bmpGet t.mem s.arg0.toNat x s.arg1.toNat = rowPixel s.arg2 s.arg3 x := by
    rw [hmem, bmpGet_bmpSetRow hx]
  refine ⟨t, hexec, ⟨hbyte 0 (by decide), hbyte 1 (by decide), hbyte 2 (by decide), hbyte 3 (by decide),
    fun a hother => ?_⟩, fun x hx => ⟨?_, ?_⟩, fun a => ?_, hrest⟩
  · rw [hmem, read_bmpSetRow, bmpRowAddr_eq, if_neg hother]
  · rw [hpixel x (by omega), rowPixel, if_pos hx]
  · rw [hpixel (x + 4) (by omega), rowPixel, if_neg (by omega), Nat.add_sub_cancel]
  · rw [hmem, read_bmpSetRow_eq_bmpSetEach hy]
    rfl

/-- Settles O21: the store is one `MemWrite` of two bytes at the entry's address. -/
theorem palSetWritesOneEntry : Obligations.PalSetWritesOneEntry := by
  refine ⟨rfl, fun s => ⟨fun hpal hentry => ?_, fun hout => exec_argRange (by simp [Instr.operands])
    (mt legal_palSet_iff.1 (by omega))⟩⟩
  obtain ⟨t, hexec, hmem, hrest⟩ := exec_store (legal_palSet_iff.2 ⟨hpal, hentry⟩) rfl
  have hread (a : Nat) : t.mem.read a = if a = palAddr s.arg0.toNat s.arg1.toNat then loByte s.arg2
      else if a = palAddr s.arg0.toNat s.arg1.toNat + 1 then hiByte s.arg2 else s.mem.read a := by
    rw [hmem, Memory.read_write16]
  refine ⟨t, hexec, ⟨?_, ?_, fun a hother => ?_⟩, hrest⟩
  · rw [hread, palAddr_eq, if_pos rfl, loByte]
  · rw [hread, palAddr_eq, if_neg (Nat.succ_ne_self _), if_pos rfl, hiByte]
  · obtain ⟨hlo, hhi⟩ := not_or.1 hother
    rw [hread, palAddr_eq, if_neg hlo, if_neg hhi]

/-- Settles O22: the answer is the 16-bit value at the entry's address, whose two bytes PAL_SET has just stored. -/
theorem palGetReadsOneEntry : Obligations.PalGetReadsOneEntry := by
  refine ⟨rfl, fun s => ⟨exec_palGet_of_legal, fun hout => exec_argRange (by simp [Instr.operands])
    (mt legal_palGet_iff.1 (by omega))⟩, fun s t hpal hentry hset => ?_⟩
  obtain ⟨t', hexec, ⟨hlo, hhi, -⟩, hoperands, -⟩ := (palSetWritesOneEntry.2 s).1 hpal hentry
  cases hexec.symm.trans hset
  obtain ⟨h0, h1, -⟩ := State.args_eq_iff.1 hoperands.args
  have hcolor : palColor t.mem s.arg0.toNat s.arg1.toNat = s.arg2 := by
    rw [palColor, palAddr_eq, Memory.read16, hlo, hhi]
    exact hiByte_append_loByte s.arg2
  rw [exec_palGet_of_legal (by rwa [h0]) (by rwa [h1]), h0, h1, hcolor]

end Sys2Proof.Machine

/-! SUPPORT. What the painters of one color do to every pixel: the pixels they give the color, and that two painters of
the same pixels agree (20_memory.md R57, R62; 43_framebuffer.md R160 to R165). -/

namespace Sys2Proof.Machine

/-! ### Pixels and bytes -/

/-- The pixel of linear index `i` (43_framebuffer.md R165). -/
theorem read16_linearIndex (m : Memory) (i : Nat) : m.read16 (0x15A00 + 2 * i) = pixel m (i % 128) (i / 128) := by
  rw [pixel, fbAddr_eq, Nat.mod_add_div]

/-- Memories with the same pixels and the same bytes outside the framebuffer have the same bytes. -/
theorem read_eq_of_pixels {m n : Memory} (hpixel : ∀ x y, x < 128 → y < 128 → pixel m x y = pixel n x y)
    (hframe : ∀ a, ¬ inZone .framebuffer a → m.read a = n.read a) (a : Nat) : m.read a = n.read a := by
  by_cases ha : inZone .framebuffer a
  · rw [inZone_framebuffer_iff] at ha
    obtain ⟨i, hi, hbyte⟩ : ∃ i < 16384, a = 0x15A00 + 2 * i ∨ a = 0x15A00 + 2 * i + 1 :=
      ⟨(a - 0x15A00) / 2, by omega, by omega⟩
    have hword : m.read16 (0x15A00 + 2 * i) = n.read16 (0x15A00 + 2 * i) := by
      rw [read16_linearIndex, read16_linearIndex, hpixel _ _ (by omega) (by omega)]
    obtain ⟨hhi, hlo⟩ := word_eq_iff.1 hword
    simp only [Memory.read16, hiByte_append, loByte_append] at hhi hlo
    rcases hbyte with rfl | rfl
    · exact hlo
    · exact hhi
  · exact hframe a ha

/-- A run of `n` pixels from linear index `i` on, stored as one splice. -/
theorem pixel_writeWords_replicate (m : Memory) (i n : Nat) (c : Word) (x y : Nat) :
    pixel (m.writeWords (0x15A00 + 2 * i) (List.replicate n c)) x y =
      if i ≤ x + 128 * y ∧ x + 128 * y < i + n then c else pixel m x y := by
  have hlen : (List.replicate n c).length = n := List.length_replicate
  rw [pixel, fbAddr_eq]
  split_ifs with hin
  · obtain ⟨k, hk⟩ := Nat.exists_eq_add_of_le hin.1
    rw [hk, Nat.mul_add, ← Nat.add_assoc, Memory.read16_writeWords _ _ _ _ (by omega),
      List.getD_replicate _ (by omega)]
  · exact Memory.read16_writeWords_outside _ _ _ _ (by omega)

/-! ### Painters -/

/-- `f` gives the color `c` to the on-screen pixels of `S` and leaves every other pixel. -/
structure Paints (S : Set (Int × Int)) (c : Word) (f : Memory → Memory) : Prop where
  painted : ∀ (m : Memory) (px py : Nat), px < 128 → py < 128 → ((px : Int), (py : Int)) ∈ S →
    pixel (f m) px py = c
  kept : ∀ (m : Memory) (px py : Nat), px < 128 → py < 128 → ((px : Int), (py : Int)) ∉ S →
    pixel (f m) px py = pixel m px py

namespace Paints

variable {S T : Set (Int × Int)} {c : Word} {f g : Memory → Memory}

theorem pixel_eq (hf : Paints S c f) (m : Memory) {px py : Nat} (hx : px < 128) (hy : py < 128) {P : Prop}
    [Decidable P] (hP : ((px : Int), (py : Int)) ∈ S ↔ P) : pixel (f m) px py = if P then c else pixel m px py := by
  split_ifs with hin
  · exact hf.painted m px py hx hy (hP.2 hin)
  · exact hf.kept m px py hx hy (mt hP.1 hin)

/-- Only the on-screen part of the painted pixels matters. -/
theorem congr (hf : Paints S c f) (hST : ∀ px py : Nat, px < 128 → py < 128 →
    (((px : Int), (py : Int)) ∈ T ↔ ((px : Int), (py : Int)) ∈ S)) : Paints T c f where
  painted m px py hx hy hin := hf.painted m px py hx hy ((hST px py hx hy).1 hin)
  kept m px py hx hy hout := hf.kept m px py hx hy (mt (hST px py hx hy).2 hout)

theorem keeps : Paints ∅ c fun m => m where
  painted _ _ _ _ _ hin := absurd hin (Set.notMem_empty _)
  kept _ _ _ _ _ _ := rfl

theorem comp (hg : Paints T c g) (hf : Paints S c f) : Paints (S ∪ T) c fun m => g (f m) where
  painted m px py hx hy hin := by
    by_cases hT : ((px : Int), (py : Int)) ∈ T
    · exact hg.painted _ px py hx hy hT
    · rw [hg.kept _ px py hx hy hT, hf.painted m px py hx hy (hin.resolve_right hT)]
  kept m px py hx hy hout := by
    obtain ⟨hS, hT⟩ := not_or.1 hout
    rw [hg.kept _ px py hx hy hT, hf.kept m px py hx hy hS]

/-- A loop paints what some pass of it paints. -/
theorem loop {n : Nat} {S : Nat → Set (Int × Int)} {body : Nat → Memory → Memory}
    (h : ∀ i, i < n → Paints (S i) c (body i)) : Paints {p | ∃ i < n, p ∈ S i} c (loop n body) := by
  induction n with
  | zero => exact keeps.congr fun px py _ _ => by simp
  | succ n ih =>
    have hlast := (h n (Nat.lt_succ_self n)).comp (ih fun i hi => h i (Nat.lt_succ_of_lt hi))
    simp only [← loop_succ] at hlast
    exact hlast.congr fun px py _ _ => Nat.exists_lt_succ_right

/-- Painters of the same pixels that stay in the framebuffer agree on every byte. -/
theorem read_eq (hf : Paints S c f) (hg : Paints S c g) (hfonly : WritesOnly (inZone .framebuffer) f)
    (hgonly : WritesOnly (inZone .framebuffer) g) (m : Memory) (a : Nat) : (f m).read a = (g m).read a := by
  refine read_eq_of_pixels (fun px py hx hy => ?_) (fun a ha => ?_) a
  · by_cases hin : ((px : Int), (py : Int)) ∈ S
    · rw [hf.painted m px py hx hy hin, hg.painted m px py hx hy hin]
    · rw [hf.kept m px py hx hy hin, hg.kept m px py hx hy hin]
  · rw [hfonly.frame ha, hgonly.frame ha]

end Paints

theorem plot_paints (x y : Int) (c : Word) : Paints {(x, y)} c (plot x y c) where
  painted m px py hx hy hin := by
    obtain ⟨rfl, rfl⟩ := Prod.mk.inj hin
    rw [pixel_plot _ _ _ _ _ _ hx hy, if_pos ⟨rfl, rfl⟩]
  kept m px py hx hy hout := by
    rw [pixel_plot _ _ _ _ _ _ hx hy, if_neg]
    rintro ⟨rfl, rfl⟩
    exact hout rfl

theorem plotAll_paints (ps : List (Int × Int)) (c : Word) : Paints {p | p ∈ ps} c (plotAll ps c) := by
  induction ps with
  | nil => exact Paints.keeps.congr fun px py _ _ => by simp
  | cons p ps ih => exact (ih.comp (plot_paints p.1 p.2 c)).congr fun px py _ _ => by simp

theorem paintFill_paints (c : Word) : Paints Set.univ c (paintFill c) where
  painted m px py hx hy _ := by
    have hfill : paintFill c m = m.writeWords (0x15A00 + 2 * 0) (List.replicate (128 * 128) c) := rfl
    rw [hfill, pixel_writeWords_replicate, if_pos (by omega)]
  kept _ _ _ _ _ hout := absurd (Set.mem_univ _) hout

/-- The pixels of a rectangle (43_framebuffer.md R162). -/
def rectangle (x y w h : Int) : Set (Int × Int) :=
  {p | x ≤ p.1 ∧ p.1 ≤ x + w - 1 ∧ y ≤ p.2 ∧ p.2 ≤ y + h - 1}

/-- Clipping keeps the coordinates of a span that lie on the screen (20_memory.md R62). -/
theorem clipSpan_contains_iff {v n : Int} {size p : Nat} (hp : p < size) :
    (clipSpan v n size).1 ≤ p ∧ p < (clipSpan v n size).1 + (clipSpan v n size).2 ↔
      v ≤ p ∧ (p : Int) ≤ v + n - 1 := by
  simp only [clipSpan]
  omega

/-- A row's span that ends on the screen. -/
theorem rowSpan_paints {x n : Nat} (y : Nat) (c : Word) (hspan : n = 0 ∨ x + n ≤ 128) :
    Paints {p | x ≤ p.1 ∧ p.1 < x + n ∧ p.2 = y} c
      (fun m => m.writeWords (fbAddr x y) (List.replicate n c)) where
  painted m px py hx hy hin := by
    rw [Set.mem_ofPred_eq] at hin
    rw [fbAddr_eq, pixel_writeWords_replicate, if_pos (by omega)]
  kept m px py hx hy hout := by
    rw [Set.mem_ofPred_eq] at hout
    rw [fbAddr_eq, pixel_writeWords_replicate, if_neg (by omega)]

theorem paintRect_paints (x y w h : Int) (c : Word) : Paints (rectangle x y w h) c (paintRect x y w h c) := by
  refine (Paints.loop fun j _ => rowSpan_paints _ c (clipSpan_empty_or_le x w Config.fbW)).congr
    fun px py hx hy => ?_
  have hcols := clipSpan_contains_iff (v := x) (n := w) (size := Config.fbW) hx
  have hrows := clipSpan_contains_iff (v := y) (n := h) (size := Config.fbH) hy
  simp only [rectangle, Set.mem_ofPred_eq]
  constructor
  · intro hin
    exact ⟨py - (clipSpan y h Config.fbH).1, by omega, by omega, by omega, by omega⟩
  · rintro ⟨j, hj, hin⟩
    omega

/-- The rectangle that is the whole screen holds every pixel that FILL paints (43_framebuffer.md R162). -/
theorem read_paintRect_fullScreen (c : Word) (m : Memory) (a : Nat) :
    (paintRect 0 0 128 128 c m).read a = (paintFill c m).read a := by
  refine Paints.read_eq (paintRect_paints 0 0 128 128 c) ((paintFill_paints c).congr fun px py hx hy => ?_)
    (paintRect_writesOnly 0 0 128 128 c) (paintFill_writesOnly c) m a
  simp only [rectangle, Set.mem_ofPred_eq, Set.mem_univ, iff_true]
  omega

/-! ### The pseudocode of FILL and RECT (43_framebuffer.md R161, R162) -/

theorem fillByPlot_paints (c : Word) : Paints Set.univ c (fillByPlot c) :=
  (Paints.loop fun y _ => Paints.loop fun x _ => plot_paints x y c).congr fun px py hx hy =>
    ⟨fun _ => ⟨py, hy, px, hx, rfl⟩, fun _ => Set.mem_univ _⟩

theorem rectByPlot_paints (x y w h : Int) (c : Word) : Paints (rectangle x y w h) c (rectByPlot x y w h c) := by
  refine (Paints.loop fun j _ => Paints.loop fun i _ => plot_paints (x + i) (y + j) c).congr fun px py _ _ => ?_
  simp only [rectangle, Set.mem_ofPred_eq, Set.mem_singleton_iff, Prod.mk.injEq]
  constructor
  · intro hin
    exact ⟨(py - y).toNat, by omega, (px - x).toNat, by omega, by omega, by omega⟩
  · rintro ⟨j, hj, i, hi, hpx, hpy⟩
    omega

theorem fillByPlot_writesOnly (c : Word) : WritesOnly (inZone .framebuffer) (fillByPlot c) :=
  .loop fun _ _ => .loop fun _ _ => plot_writesOnly _ _ c

theorem rectByPlot_writesOnly (x y w h : Int) (c : Word) :
    WritesOnly (inZone .framebuffer) (rectByPlot x y w h c) :=
  .loop fun _ _ => .loop fun _ _ => plot_writesOnly _ _ c

theorem fillByPlot_wf {c : Word} {m : Memory} (hm : m.wf = true) : (fillByPlot c m).wf = true :=
  loop_wf hm fun _ _ _ hm => loop_wf hm fun _ _ _ hm => plot_wf hm

theorem rectByPlot_wf {x y w h : Int} {c : Word} {m : Memory} (hm : m.wf = true) :
    (rectByPlot x y w h c m).wf = true :=
  loop_wf hm fun _ _ _ hm => loop_wf hm fun _ _ _ hm => plot_wf hm

end Sys2Proof.Machine

/-! SUPPORT. The pixels of LINE (43_framebuffer.md R163, R164): the ranges of the straight lines, and the general loop
seen from the moves that remain to `(x1, y1)`. -/

namespace Sys2Proof.Machine

/-! ### The cases of LINE -/

theorem linePixels_horizontal (x0 x1 y : Int) :
    linePixels x0 y x1 y = (intRange (min x0 x1) (max x0 x1)).map fun x => (x, y) := if_pos rfl

theorem linePixels_vertical {y0 y1 : Int} (hy : y0 ≠ y1) (x : Int) :
    linePixels x y0 x y1 = (intRange (min y0 y1) (max y0 y1)).map fun y => (x, y) :=
  (if_neg hy).trans (if_pos rfl)

theorem sign_sub_eq_ite {v0 v1 : Int} (h : v0 ≠ v1) : (v1 - v0).sign = if v0 < v1 then 1 else -1 := by
  split_ifs with hlt
  · exact Int.sign_eq_one_of_pos (by omega)
  · exact Int.sign_eq_neg_one_of_neg (by omega)

theorem sign_sub_ne_zero {v0 v1 : Int} (h : v0 ≠ v1) : (v1 - v0).sign ≠ 0 :=
  mt Int.sign_eq_zero_iff_zero.1 (by omega)

theorem linePixels_general {x0 y0 x1 y1 : Int} (hx : x0 ≠ x1) (hy : y0 ≠ y1) :
    linePixels x0 y0 x1 y1 =
      bresenham x1 y1 (x1 - x0).natAbs (-(y1 - y0).natAbs) (x1 - x0).sign (y1 - y0).sign
        ((x1 - x0).natAbs + (y1 - y0).natAbs + 1) x0 y0 ((x1 - x0).natAbs + -(y1 - y0).natAbs) := by
  rw [sign_sub_eq_ite hx, sign_sub_eq_ite hy]
  exact (if_neg hy).trans (if_neg hx)

/-! ### Ranges (00_scope.md R10) -/

theorem mem_intRange (a b p : Int) : p ∈ intRange a b ↔ a ≤ p ∧ p ≤ b := by
  simp only [intRange, List.mem_map, List.mem_range]
  constructor
  · rintro ⟨k, hk, rfl⟩
    omega
  · intro h
    exact ⟨(p - a).toNat, by omega, by omega⟩

theorem mem_linePixels_horizontal (x0 x1 y p q : Int) :
    (p, q) ∈ linePixels x0 y x1 y ↔ q = y ∧ min x0 x1 ≤ p ∧ p ≤ max x0 x1 := by
  simp only [linePixels_horizontal, List.mem_map, mem_intRange, Prod.mk.injEq]
  constructor
  · rintro ⟨x, hx, rfl, rfl⟩
    exact ⟨rfl, hx⟩
  · rintro ⟨rfl, hp⟩
    exact ⟨p, hp, rfl, rfl⟩

theorem mem_linePixels_vertical {y0 y1 : Int} (hy : y0 ≠ y1) (x p q : Int) :
    (p, q) ∈ linePixels x y0 x y1 ↔ p = x ∧ min y0 y1 ≤ q ∧ q ≤ max y0 y1 := by
  simp only [linePixels_vertical hy, List.mem_map, mem_intRange, Prod.mk.injEq]
  constructor
  · rintro ⟨y, hy, rfl, rfl⟩
    exact ⟨rfl, hy⟩
  · rintro ⟨rfl, hq⟩
    exact ⟨q, hq, rfl, rfl⟩

@[simp] theorem length_intRange (a b : Int) : (intRange a b).length = (b - a + 1).toNat := by
  rw [intRange, List.length_map, List.length_range]

/-- The pixels of a straight line, when `f` takes each coordinate to the next pixel of a king's move. -/
theorem visits_map_intRange {f : Int → Int × Int} {a b : Int} (hab : a ≤ b)
    (hstep : ∀ u, a ≤ u → u < b → lineStep (f a).1 (f a).2 (f b).1 (f b).2 (f u) (f (u + 1))) :
    VisitsFromTo (f a).1 (f a).2 (f b).1 (f b).2 ((intRange a b).map f) := by
  obtain ⟨n, rfl⟩ := Int.le.dest hab
  have hrange : intRange a (a + n) = (List.range (n + 1)).map fun k : Nat => a + (k : Int) := by
    rw [intRange, show (a + n - a + 1).toNat = n + 1 by omega]
  rw [hrange, List.map_map]
  refine ⟨?_, ?_, ?_⟩
  · simp [List.head?_range]
  · simp [List.getLast?_range]
  · rw [List.isChain_map, List.isChain_range_succ]
    intro k hk
    simpa [Int.add_assoc] using hstep (a + k) (by omega) (by omega)

/-! ### Moves that never go back -/

/-- How far a pixel lies along the way from `(x0, y0)` to `(x1, y1)`. -/
def progress (x0 y0 x1 y1 : Int) (p : Int × Int) : Int := (x1 - x0).sign * p.1 + (y1 - y0).sign * p.2

theorem sign_mul_le_of_move {d u v : Int} (h : v - u = 0 ∨ v - u = d.sign) :
    d.sign * u ≤ d.sign * v ∧ (u ≠ v → d.sign * u < d.sign * v) := by
  rcases Int.sign_trichotomy d with hs | hs | hs <;> rw [hs] at h ⊢ <;> omega

theorem progress_lt_of_lineStep {x0 y0 x1 y1 : Int} {p q : Int × Int} (h : lineStep x0 y0 x1 y1 p q) :
    progress x0 y0 x1 y1 p < progress x0 y0 x1 y1 q := by
  obtain ⟨hne, hx, hy⟩ := h
  obtain ⟨hxle, hxlt⟩ := sign_mul_le_of_move hx
  obtain ⟨hyle, hylt⟩ := sign_mul_le_of_move hy
  unfold progress
  rcases not_and_or.1 (mt Prod.ext_iff.2 hne) with hx | hy
  · exact add_lt_add_of_lt_of_le (hxlt hx) hyle
  · exact add_lt_add_of_le_of_lt hxle (hylt hy)

theorem VisitsFromTo.nodup {x0 y0 x1 y1 : Int} {ps : List (Int × Int)} (h : VisitsFromTo x0 y0 x1 y1 ps) :
    ps.Nodup := by
  have hrising : (ps.map (progress x0 y0 x1 y1)).IsChain (· < ·) :=
    (List.isChain_map _).2 (h.moves.imp fun _ _ => progress_lt_of_lineStep)
  exact List.Nodup.of_map _ (hrising.pairwise.imp ne_of_lt)

/-! ### The general loop -/

theorem bresenham_exit (x1 y1 dx dy sx sy err : Int) (fuel : Nat) :
    bresenham x1 y1 dx dy sx sy (fuel + 1) x1 y1 err = [(x1, y1)] := if_pos ⟨rfl, rfl⟩

theorem bresenham_pass {x1 y1 x y : Int} (dx dy sx sy err : Int) (fuel : Nat) (away : ¬(x = x1 ∧ y = y1)) :
    bresenham x1 y1 dx dy sx sy (fuel + 1) x y err =
      (x, y) :: bresenham x1 y1 dx dy sx sy fuel (if 2 * err ≥ dy then x + sx else x)
        (if 2 * err ≤ dx then y + sy else y)
        (err + (if 2 * err ≥ dy then dy else 0) + (if 2 * err ≤ dx then dx else 0)) := by
  have herr : (if 2 * err ≤ dx then (if 2 * err ≥ dy then err + dy else err) + dx
      else (if 2 * err ≥ dy then err + dy else err)) =
      err + (if 2 * err ≥ dy then dy else 0) + (if 2 * err ≤ dx then dx else 0) := by
    split_ifs <;> omega
  rw [← herr]
  exact if_neg away

/-- The state `(x, y)`, `err` of the loop on a line of `n` moves in x and `k` in y, in the directions `sx` and `sy`,
when `a` of the first and `b` of the second remain: the accumulator is a function of these. -/
structure Remaining (x1 y1 sx sy : Int) (n k : Nat) (x y err : Int) (a b : Nat) : Prop where
  x_eq : x = x1 - sx * a
  y_eq : y = y1 - sy * b
  err_eq : err = k * (a - 1 : Int) - n * (b - 1 : Int)

namespace Remaining

variable {x1 y1 sx sy : Int} {n k : Nat} {x y err : Int} {a b : Nat}

theorem start (x0 y0 x1 y1 : Int) :
    Remaining x1 y1 (x1 - x0).sign (y1 - y0).sign (x1 - x0).natAbs (y1 - y0).natAbs x0 y0
      ((x1 - x0).natAbs + -(y1 - y0).natAbs) (x1 - x0).natAbs (y1 - y0).natAbs where
  x_eq := by rw [Int.sign_mul_natAbs]; omega
  y_eq := by rw [Int.sign_mul_natAbs]; omega
  err_eq := by ring

theorem at_end_iff (h : Remaining x1 y1 sx sy n k x y err a b) (hsx : sx ≠ 0) (hsy : sy ≠ 0) :
    (x = x1 ∧ y = y1) ↔ a = 0 ∧ b = 0 := by
  rw [h.x_eq, h.y_eq]
  simp [hsx, hsy]

/-- The test for x fails when only moves in y remain. -/
theorem pos_of_testX (h : Remaining x1 y1 sx sy n k x y err a b) (hk : 0 < k) (haway : ¬(a = 0 ∧ b = 0))
    (ht : 2 * err ≥ -(k : Int)) : 0 < a := by
  rcases Nat.eq_zero_or_pos a with rfl | ha
  · have hrows : (0 : Int) ≤ n * (b - 1 : Int) := mul_nonneg (by omega) (by omega)
    have herr := h.err_eq
    push_cast at herr
    omega
  · exact ha

/-- The test for y fails when only moves in x remain. -/
theorem pos_of_testY (h : Remaining x1 y1 sx sy n k x y err a b) (hn : 0 < n) (haway : ¬(a = 0 ∧ b = 0))
    (ht : 2 * err ≤ (n : Int)) : 0 < b := by
  rcases Nat.eq_zero_or_pos b with rfl | hb
  · have hcols : (0 : Int) ≤ k * (a - 1 : Int) := mul_nonneg (by omega) (by omega)
    have herr := h.err_eq
    push_cast at herr
    omega
  · exact hb

/-- The moves left after a pass, which makes one if the test `t` of its axis succeeds. -/
theorem exists_eq_add_ite {t : Prop} [Decidable t] (hpos : t → 0 < a) : ∃ a', a = a' + if t then 1 else 0 := by
  split_ifs with ht
  · exact Nat.exists_eq_succ_of_ne_zero (hpos ht).ne'
  · exact ⟨a, rfl⟩

/-- A pass away from the exit makes one of the moves that remain in x, or one in y, or both: the tests cannot both
fail, and neither succeeds when its moves are used up. -/
theorem pass (h : Remaining x1 y1 sx sy n k x y err a b) (hn : 0 < n) (hk : 0 < k) (haway : ¬(a = 0 ∧ b = 0)) :
    ∃ a' b', a' + b' < a + b ∧
      Remaining x1 y1 sx sy n k (if 2 * err ≥ -(k : Int) then x + sx else x)
        (if 2 * err ≤ (n : Int) then y + sy else y)
        (err + (if 2 * err ≥ -(k : Int) then -(k : Int) else 0) + (if 2 * err ≤ (n : Int) then (n : Int) else 0))
        a' b' := by
  obtain ⟨a', rfl⟩ := exists_eq_add_ite (h.pos_of_testX hk haway)
  obtain ⟨b', rfl⟩ := exists_eq_add_ite (h.pos_of_testY hn haway)
  obtain ⟨rfl, rfl, herr⟩ := h
  refine ⟨a', b', ?_, ?_, ?_, ?_⟩
  · split_ifs <;> omega
  · split_ifs <;> push_cast <;> ring
  · split_ifs <;> push_cast <;> ring
  · split_ifs at herr ⊢ <;> push_cast at herr <;> linarith

/-- Each pass uses up a move, so a bound above the moves that remain is never reached. -/
theorem lineLoop_bresenham {fuel : Nat} (h : Remaining x1 y1 sx sy n k x y err a b) (hn : 0 < n) (hk : 0 < k)
    (hsx : sx ≠ 0) (hsy : sy ≠ 0) (hfuel : a + b < fuel) :
    LineLoop x1 y1 n (-k) sx sy x y err (bresenham x1 y1 n (-k) sx sy fuel x y err) := by
  induction fuel generalizing x y err a b with
  | zero => exact absurd hfuel (Nat.not_lt_zero _)
  | succ fuel ih =>
    by_cases hend : x = x1 ∧ y = y1
    · obtain ⟨rfl, rfl⟩ := hend
      rw [bresenham_exit]
      exact .exit err
    · obtain ⟨a', b', hless, hnext⟩ := h.pass hn hk (mt (h.at_end_iff hsx hsy).2 hend)
      rw [bresenham_pass _ _ _ _ _ _ hend]
      exact .pass hend (ih hnext (by omega))

end Remaining

/-! ### What a complete run of the loop visits -/

namespace LineLoop

variable {x1 y1 dx dy sx sy x y err : Int} {ps : List (Int × Int)}

theorem head? (h : LineLoop x1 y1 dx dy sx sy x y err ps) : ps.head? = some (x, y) := by
  cases h <;> rfl

theorem getLast? (h : LineLoop x1 y1 dx dy sx sy x y err ps) : ps.getLast? = some (x1, y1) := by
  induction h with
  | exit err => rfl
  | pass away next ih => rw [List.getLast?_cons, ih]; rfl

/-- The tests of a pass cannot both fail, so it moves to another pixel, in the directions of the line. -/
theorem moves {x0 y0 : Int} (hx : x0 ≠ x1) (hy : y0 ≠ y1) (htests : dy ≤ 0 ∧ 0 ≤ dx)
    (h : LineLoop x1 y1 dx dy (x1 - x0).sign (y1 - y0).sign x y err ps) : ps.IsChain (lineStep x0 y0 x1 y1) := by
  have hsx := sign_sub_ne_zero hx
  have hsy := sign_sub_ne_zero hy
  induction h with
  | exit err => exact .singleton _
  | @pass x y err ps away next ih =>
    refine List.isChain_cons.2 ⟨fun q hq => ?_, ih⟩
    cases hq.symm.trans next.head?
    refine ⟨fun heq => ?_, ?_, ?_⟩
    · obtain ⟨hxkept, hykept⟩ := Prod.mk.inj heq
      by_cases ht : 2 * err ≥ dy
      · rw [if_pos ht] at hxkept
        omega
      · rw [if_pos (by omega)] at hykept
        omega
    · dsimp only
      split_ifs <;> omega
    · dsimp only
      split_ifs <;> omega

/-- Along a wide line the test for x succeeds in every pass. -/
theorem x1_eq_of_wide (hwide : -dy ≤ dx) (herr : dy ≤ 2 * err) (h : LineLoop x1 y1 dx dy sx sy x y err ps) :
    x1 = x + sx * (ps.length - 1 : Int) := by
  induction h with
  | exit err => simp
  | pass away next ih =>
    have hnext := ih (by split_ifs <;> omega)
    rw [if_pos herr] at hnext
    rw [hnext, List.length_cons]
    push_cast
    ring

/-- Along a tall line the test for y succeeds in every pass. -/
theorem y1_eq_of_tall (htall : dx ≤ -dy) (herr : 2 * err ≤ dx) (h : LineLoop x1 y1 dx dy sx sy x y err ps) :
    y1 = y + sy * (ps.length - 1 : Int) := by
  induction h with
  | exit err => simp
  | pass away next ih =>
    have hnext := ih (by split_ifs <;> omega)
    rw [if_pos herr] at hnext
    rw [hnext, List.length_cons]
    push_cast
    ring

end LineLoop

/-- The pixels of the general case are those of a complete run of the loop of R163 with no bound on its passes. -/
theorem lineLoop_linePixels {x0 y0 x1 y1 : Int} (hx : x0 ≠ x1) (hy : y0 ≠ y1) :
    LineLoop x1 y1 (x1 - x0).natAbs (-(y1 - y0).natAbs) (x1 - x0).sign (y1 - y0).sign x0 y0
      ((x1 - x0).natAbs + -(y1 - y0).natAbs) (linePixels x0 y0 x1 y1) := by
  rw [linePixels_general hx hy]
  exact (Remaining.start x0 y0 x1 y1).lineLoop_bresenham (by omega) (by omega) (sign_sub_ne_zero hx)
    (sign_sub_ne_zero hy) (Nat.lt_succ_self _)

theorem eq_natAbs_of_sign_mul_eq {d c : Int} (hd : d ≠ 0) (h : d.sign * c = d) : c = d.natAbs :=
  mul_left_cancel₀ (mt Int.sign_eq_zero_iff_zero.1 hd) (h.trans (Int.sign_mul_natAbs d).symm)

/-- A line visits one pixel for each coordinate of its longer axis (43_framebuffer.md R164). -/
theorem length_linePixels (x0 y0 x1 y1 : Int) :
    (linePixels x0 y0 x1 y1).length = max (x1 - x0).natAbs (y1 - y0).natAbs + 1 := by
  by_cases hy : y0 = y1
  · subst hy
    rw [linePixels_horizontal, List.length_map, length_intRange]
    omega
  by_cases hx : x0 = x1
  · subst hx
    rw [linePixels_vertical hy, List.length_map, length_intRange]
    omega
  have hloop := lineLoop_linePixels hx hy
  rcases Nat.le_total (y1 - y0).natAbs (x1 - x0).natAbs with hwide | htall
  · have hend := hloop.x1_eq_of_wide (by omega) (by omega)
    have := eq_natAbs_of_sign_mul_eq (d := x1 - x0) (c := (linePixels x0 y0 x1 y1).length - 1) (by omega) (by omega)
    omega
  · have hend := hloop.y1_eq_of_tall (by omega) (by omega)
    have := eq_natAbs_of_sign_mul_eq (d := y1 - y0) (c := (linePixels x0 y0 x1 y1).length - 1) (by omega) (by omega)
    omega

/-! ### From end to end -/

theorem visits_horizontal (x0 x1 y : Int) :
    VisitsFromTo (min x0 x1) y (max x0 x1) y (linePixels x0 y x1 y) := by
  rw [linePixels_horizontal]
  refine visits_map_intRange (f := fun x => (x, y)) (by omega) fun u hlo hhi => ?_
  have hsign : (max x0 x1 - min x0 x1).sign = 1 := Int.sign_eq_one_of_pos (by omega)
  exact ⟨by simp, .inr (by rw [hsign]; omega), .inl (sub_self y)⟩

theorem visits_vertical {y0 y1 : Int} (hy : y0 ≠ y1) (x : Int) :
    VisitsFromTo x (min y0 y1) x (max y0 y1) (linePixels x y0 x y1) := by
  rw [linePixels_vertical hy]
  refine visits_map_intRange (f := fun y => (x, y)) (by omega) fun u hlo hhi => ?_
  have hsign : (max y0 y1 - min y0 y1).sign = 1 := Int.sign_eq_one_of_pos (by omega)
  exact ⟨by simp, .inl (sub_self x), .inr (by rw [hsign]; omega)⟩

theorem visits_general {x0 y0 x1 y1 : Int} (hx : x0 ≠ x1) (hy : y0 ≠ y1) :
    VisitsFromTo x0 y0 x1 y1 (linePixels x0 y0 x1 y1) :=
  have hloop := lineLoop_linePixels hx hy
  ⟨hloop.head?, hloop.getLast?, hloop.moves hx hy (by omega)⟩

theorem nodup_linePixels (x0 y0 x1 y1 : Int) : (linePixels x0 y0 x1 y1).Nodup := by
  by_cases hy : y0 = y1
  · subst hy
    exact (visits_horizontal x0 x1 y0).nodup
  by_cases hx : x0 = x1
  · subst hx
    exact (visits_vertical hy x0).nodup
  · exact (visits_general hx hy).nodup

end Sys2Proof.Machine

/-! The statements of the framebuffer primitives (43_framebuffer.md R160 to R165). -/

namespace Sys2Proof.Machine

/-- Settles O23: the effect is one `Plot`. -/
theorem psetWritesOneClippedPixel : Obligations.PsetWritesOneClippedPixel := by
  refine ⟨rfl, fun s => ?_⟩
  obtain ⟨t, hexec, hmem, hrest⟩ := exec_store (legal_painter (i := .pset) (by decide) s) rfl
  refine ⟨t, hexec, ⟨fun hon => ?_, fun hoff => ?_⟩, hrest⟩
  · have hread (b : Nat) : t.mem.read b =
        if b = fbAddr s.arg0.toInt.toNat s.arg1.toInt.toNat then loByte s.arg2
        else if b = fbAddr s.arg0.toInt.toNat s.arg1.toInt.toNat + 1 then hiByte s.arg2 else s.mem.read b := by
      rw [hmem, read_plot]
      exact if_pos ((onScreen_iff _ _).2 hon)
    refine ⟨?_, ?_, fun b hother => ?_⟩
    · rw [hread, fbAddr_eq, if_pos rfl, loByte]
    · rw [hread, fbAddr_eq, if_neg (Nat.succ_ne_self _), if_pos rfl, hiByte]
    · obtain ⟨hlo, hhi⟩ := not_or.1 hother
      rw [hread, fbAddr_eq, if_neg hlo, if_neg hhi]
  · exact hmem.trans (plot_offScreen (mt (onScreen_iff _ _).1 hoff) _ _)

/-- Settles O24: FILL paints every pixel and writes the framebuffer only. -/
theorem fillPaintsEveryPixel : Obligations.FillPaintsEveryPixel := by
  refine ⟨rfl, fun s => ?_⟩
  obtain ⟨t, hexec, hmem, hrest⟩ := exec_store (legal_painter (i := .fill) (by decide) s) rfl
  refine ⟨t, hexec, fun x y hx hy => ?_, fun a ha => ?_, hrest⟩
  · rw [hmem, (paintFill_paints s.arg0).painted _ x y hx hy (Set.mem_univ _)]
  · rw [hmem, (paintFill_writesOnly s.arg0).frame (mt (inZone_framebuffer_iff a).1 (by omega))]

/-- Settles O25: RECT paints its rectangle and writes the framebuffer only. -/
theorem rectPaintsItsPixels : Obligations.RectPaintsItsPixels := by
  refine ⟨rfl, fun s => ?_⟩
  obtain ⟨t, hexec, hmem, hrest⟩ := exec_store (legal_painter (i := .rect) (by decide) s) rfl
  refine ⟨t, hexec, ⟨fun px py hx hy => ?_, fun h0 h1 h2 h3 a => ?_⟩, fun a ha => ?_, hrest⟩
  · rw [hmem]
    exact (paintRect_paints _ _ _ _ _).pixel_eq s.mem hx hy Iff.rfl
  · rw [hmem]
    simp only [coordOperand, h0, h1, h2, h3, read_paintRect_fullScreen]
  · rw [hmem, (paintRect_writesOnly _ _ _ _ _).frame ha]

/-- Settles O26: the spans and the loops paint the same pixels and nothing else, and a canonical `MEM` is determined by
its bytes. -/
theorem fillAndRectEqualTheirPlots : Obligations.FillAndRectEqualTheirPlots := by
  refine fun m hm c => ⟨?_, fun x y w h => ?_⟩
  · exact Memory.eq_of_read (paintFill_wf hm) (fillByPlot_wf hm) ((paintFill_paints c).read_eq (fillByPlot_paints c)
      (paintFill_writesOnly c) (fillByPlot_writesOnly c) m)
  · exact Memory.eq_of_read (paintRect_wf hm) (rectByPlot_wf hm) ((paintRect_paints x y w h c).read_eq
      (rectByPlot_paints x y w h c) (paintRect_writesOnly x y w h c) (rectByPlot_writesOnly x y w h c) m)

/-- Settles O27: LINE paints the pixels of its list and writes the framebuffer only. -/
theorem linePaintsVisitedPixels : Obligations.LinePaintsVisitedPixels := by
  refine ⟨rfl, fun s => ?_⟩
  obtain ⟨t, hexec, hmem, hrest⟩ := exec_store (legal_painter (i := .line) (by decide) s) rfl
  refine ⟨t, hexec, fun px py hx hy => ?_, fun a ha => ?_, hrest⟩
  · rw [hmem]
    exact (plotAll_paints _ _).pixel_eq s.mem hx hy Iff.rfl
  · rw [hmem, (plotAll_writesOnly _ _).frame ha]

/-- Settles O28: each pass uses up one of the finitely many moves that remain, so the bound on the passes never cuts
a line. -/
theorem lineFollowsBresenhamLoop : Obligations.LineFollowsBresenhamLoop := by
  refine ⟨fun x0 x1 y p q => ?_, fun x y0 y1 p q hy => ?_, fun x0 y0 x1 y1 hy hx => ?_⟩
  · exact mem_linePixels_horizontal x0 x1 y p q
  · exact mem_linePixels_vertical hy x p q
  · rw [← sign_sub_eq_ite hx, ← sign_sub_eq_ite hy, Int.abs_eq_natAbs, Int.abs_eq_natAbs]
    exact lineLoop_linePixels hx hy

/-- Settles O29: the loop makes one move along the longer axis in every pass, and progress along the line rises with
each move. -/
theorem lineVisitsDistinctKingMoves : Obligations.LineVisitsDistinctKingMoves := by
  intro x0 y0 x1 y1
  refine ⟨length_linePixels x0 y0 x1 y1, nodup_linePixels x0 y0 x1 y1, visits_general, ?_, ?_⟩
  · rintro rfl
    exact visits_horizontal x0 x1 y0
  · rintro rfl hy
    exact visits_vertical hy x0

/-- Settles O30: the operand check is the bound on the index, and the 16-bit value there is the pixel. -/
theorem fbGetReadsLinearIndex : Obligations.FbGetReadsLinearIndex := by
  refine ⟨rfl, fun s => ⟨fun hi => ⟨exec_fbGet_of_legal hi, ?_⟩,
    fun hout => exec_argRange (by simp [Instr.operands]) (mt legal_fbGet_iff.1 (by omega))⟩⟩
  rw [exec_fbGet_of_legal hi, ← read16_linearIndex]

end Sys2Proof.Machine

/-! SUPPORT. The order in which RASTER reads and writes does not matter: its writes leave the zones it reads
(44_rasterizer.md R190; 20_memory.md R67). -/

namespace Sys2Proof.Machine

/-! ### Writes below the zones RASTER reads -/

theorem rasterSource_writeBytes {m : Memory} {a : Nat} {vs : List Byte} (h : a + vs.length ≤ Config.palBase) :
    rasterSource (m.writeBytes a vs) = rasterSource m := by
  unfold Memory.writeBytes
  split
  · rfl
  have hbelow : rasterSource (m.filter fun c => c.1 < a) = [] := by
    rw [rasterSource, List.filter_filter, List.filter_eq_nil_iff]
    intro c _
    simp only [Bool.and_eq_true, decide_eq_true_eq]
    omega
  have hrun : rasterSource (cellsFrom a vs) = [] := by
    rw [rasterSource, List.filter_eq_nil_iff]
    intro c hc
    have := cellsFrom_range a vs c hc
    simp only [decide_eq_true_eq]
    omega
  have habove : rasterSource (m.filter fun c => a + vs.length ≤ c.1) = rasterSource m := by
    rw [rasterSource, rasterSource, List.filter_filter]
    refine List.filter_congr fun c _ => ?_
    by_cases hc : Config.palBase ≤ c.1
    · simp [hc, h.trans hc]
    · simp [hc]
  have happend (k l : Memory) : rasterSource (k ++ l) = rasterSource k ++ rasterSource l := List.filter_append k l
  rw [happend, happend, hbelow, hrun, habove, List.nil_append, List.nil_append]

@[simp] theorem rasterSource_plot (x y : Int) (c : Word) (m : Memory) :
    rasterSource (plot x y c m) = rasterSource m := by
  rcases onScreen_cases x y with hoff | ⟨px, py, hx, hy, rfl, rfl, -⟩
  · rw [plot_offScreen hoff]
  · rw [plot_onScreen hx hy]
    rw [Memory.write16, Memory.writeWords, rasterSource_writeBytes]
    exact (fbAddr_range hx hy).2

@[simp] theorem rasterSource_rasterPixel (src : Memory) (d : Descriptor) (tx ty x y : Nat) (m : Memory) :
    rasterSource (rasterPixel src d tx ty x y m) = rasterSource m := by
  unfold rasterPixel
  dsimp only
  split
  · exact rasterSource_plot _ _ _ _
  · rfl

/-! ### The pseudocode against the model -/

/-- On every memory whose palettes, bitmaps and descriptors are those of `src`, `f` does what `g` does, and these
zones stay. -/
def SameOn (src : Memory) (f g : Memory → Memory) : Prop :=
  ∀ m, rasterSource m = src → f m = g m ∧ rasterSource (g m) = src

namespace SameOn

variable {src : Memory}

theorem keeps : SameOn src (fun m => m) fun m => m := fun _ hm => ⟨rfl, hm⟩

theorem loop {n : Nat} {f g : Nat → Memory → Memory} (h : ∀ i, i < n → SameOn src (f i) (g i)) :
    SameOn src (loop n f) (loop n g) := by
  intro m hm
  induction n with
  | zero => exact ⟨rfl, hm⟩
  | succ n ih =>
    obtain ⟨hsame, hsrc⟩ := ih fun i hi => h i (Nat.lt_succ_of_lt hi)
    rw [loop_succ, loop_succ, hsame]
    exact h n (Nat.lt_succ_self n) _ hsrc

end SameOn

/-- A pixel whose color is read from `MEM` as it is at that moment. -/
theorem rasterPixel_sameOn (src : Memory) (d : Descriptor) (tx ty x y : Nat) :
    SameOn src (fun m => rasterPixel m d tx ty x y m) (rasterPixel src d tx ty x y) := by
  intro m hm
  refine ⟨?_, (rasterSource_rasterPixel src d tx ty x y m).trans hm⟩
  simp only [rasterPixel, ← hm, tileColor_rasterSource]

/-- The body of the slot loop of R190's pseudocode, which reads the colors from `MEM` as it goes. -/
def descriptorByPlot (d : Descriptor) (m : Memory) : Memory :=
  if d.en then
    loop d.tiles (fun ty => loop d.tiles fun tx => loop Config.cell fun y => loop Config.cell fun x m =>
      rasterPixel m d tx ty x y m) m
  else m

theorem rasterByPlot_eq_loop :
    rasterByPlot = loop Config.descCount fun n m => descriptorByPlot (descRead m n) m := rfl

theorem descriptorByPlot_sameOn (src : Memory) (d : Descriptor) :
    SameOn src (descriptorByPlot d) (rasterDescriptor src d) := by
  unfold descriptorByPlot rasterDescriptor
  split
  · exact .loop fun _ _ => .loop fun _ _ => .loop fun _ _ => .loop fun _ _ => rasterPixel_sameOn src d _ _ _ _
  · exact .keeps

theorem rasterByPlot_sameOn (src : Memory) : SameOn src rasterByPlot (rasterFrom src) := by
  rw [rasterByPlot_eq_loop]
  refine .loop fun n _ m hm => ?_
  rw [← descRead_rasterSource m n, hm]
  exact descriptorByPlot_sameOn src _ m hm

end Sys2Proof.Machine

/-! SUPPORT. What RASTER does to every pixel: each slot lays at most one color over it, read at the mirrored place of
the slot's whole square (44_rasterizer.md R192 to R199). -/

namespace Sys2Proof.Machine

theorem exec_raster (s : State) :
    exec .raster s = .next { s with mem := paintRaster s.mem, status := 0x0000 } :=
  exec_of_legal (legal_painter (by decide) s)

/-! ### Loops that change nothing -/

theorem loop_eq_self {n : Nat} {body : Nat → Memory → Memory} {m : Memory} (h : ∀ i, i < n → body i m = m) :
    loop n body m = m :=
  loop_induction (P := (· = m)) rfl fun i _ hi hm => hm ▸ h i hi

/-- RASTER leaves a memory that no slot changes. -/
theorem paintRaster_eq_self {m : Memory}
    (h : ∀ n, n < 128 → rasterDescriptor (rasterSource m) (descRead m n) m = m) : paintRaster m = m := by
  refine loop_eq_self fun n hn => ?_
  rw [descRead_rasterSource]
  exact h n hn

theorem rasterDescriptor_of_disabled {d : Descriptor} (h : d.en = false) (src m : Memory) :
    rasterDescriptor src d m = m := by
  rw [rasterDescriptor, h]
  rfl

theorem rasterDescriptor_of_transparent {src : Memory} {d : Descriptor}
    (h : ∀ e, e < 16 → isOpaque (palColor src d.pal e) = false) (m : Memory) : rasterDescriptor src d m = m := by
  have hpixel (tx ty x y : Nat) : rasterPixel src d tx ty x y m = m := by
    rw [rasterPixel, tileColor, h _ (BitVec.isLt _)]
    rfl
  unfold rasterDescriptor
  split
  · exact loop_eq_self fun ty _ => loop_eq_self fun tx _ => loop_eq_self fun y _ => loop_eq_self fun x _ =>
      hpixel tx ty x y
  · rfl

theorem descRead_pal_lt (m : Memory) (n : Nat) : (descRead m n).pal < 16 := BitVec.isLt _

/-! ### Tiles of the whole square (44_rasterizer.md R194, R196, R199) -/

theorem mirror_lt {n i : Nat} (hi : i < n) (flip : Bool) : mirror flip n i < n := by
  unfold mirror
  split <;> omega

theorem mirror_not {n i : Nat} (hi : i < n) (flip : Bool) : mirror (!flip) n i = mirror flip n (n - 1 - i) := by
  cases flip
  · rfl
  · simp only [mirror, Bool.not_true, if_true, Bool.false_eq_true, if_false]
    omega

/-- Mirroring the whole side mirrors the tiles. -/
theorem mirror_side_div {n u : Nat} (hu : u < 8 * n) (flip : Bool) :
    mirror flip (8 * n) u / 8 = mirror flip n (u / 8) := by
  unfold mirror
  split <;> omega

/-- Mirroring the whole side mirrors the pixels of each tile. -/
theorem mirror_side_mod {n u : Nat} (hu : u < 8 * n) (flip : Bool) :
    mirror flip (8 * n) u % 8 = mirror flip 8 (u % 8) := by
  unfold mirror
  split <;> omega

/-- The color `d` paints at column `u` and row `v` of its square, read tile by tile as R194 to R196 do. -/
def squareColor (m : Memory) (d : Descriptor) (u v : Nat) : Option Word :=
  if d.en then Option.guard isOpaque (tileColor m d (u / 8) (v / 8) (u % 8) (v % 8)) else none

theorem squareColor_tile (m : Memory) {d : Descriptor} (hen : d.en = true) {x y : Nat} (hx : x < 8) (hy : y < 8)
    (tx ty : Nat) : squareColor m d (x + tx * 8) (y + ty * 8) =
      Option.guard isOpaque (tileColor m d tx ty x y) := by
  have hdiv {i : Nat} (hi : i < 8) (k : Nat) : (i + k * 8) / 8 = k := by omega
  have hmod {i : Nat} (hi : i < 8) (k : Nat) : (i + k * 8) % 8 = i := by omega
  rw [squareColor, if_pos hen, hdiv hx, hdiv hy, hmod hx, hmod hy]

/-- The reading of R199 over the whole square is the reading tile by tile. -/
theorem descriptorColor_square (m : Memory) (d : Descriptor) {u v : Nat} (hu : u < 8 * d.tiles)
    (hv : v < 8 * d.tiles) : descriptorColor m d (d.x + u) (d.y + v) = squareColor m d u v := by
  have hcolor : descriptorColor m d (d.x + u) (d.y + v) = if d.en then
      Option.guard isOpaque (palColor m d.pal
        (bmpGet m (tileBitmap d.index (mirror d.flipX (8 * d.tiles) u / 8) (mirror d.flipY (8 * d.tiles) v / 8))
          (mirror d.flipX (8 * d.tiles) u % 8) (mirror d.flipY (8 * d.tiles) v % 8)).toNat) else none := by
    have hinside : d.x ≤ d.x + u ∧ d.x + u < d.x + (8 * d.tiles : Nat) ∧ d.y ≤ d.y + v ∧
        d.y + v < d.y + (8 * d.tiles : Nat) := by omega
    simp only [descriptorColor, Config.cell, hinside, and_true, add_sub_cancel_left, Int.toNat_natCast]
    rfl
  rw [hcolor, mirror_side_div hu, mirror_side_mod hu, mirror_side_div hv, mirror_side_mod hv]
  rfl

theorem descriptorColor_of_disabled {d : Descriptor} (h : d.en = false) (m : Memory) (px py : Int) :
    descriptorColor m d px py = none :=
  if_neg fun hpaints => Bool.noConfusion (h.symm.trans hpaints.1)

/-- A descriptor paints in its square alone (44_rasterizer.md R197). -/
theorem exists_square_of_descriptorColor {m : Memory} {d : Descriptor} {px py : Int}
    (h : descriptorColor m d px py ≠ none) :
    ∃ u v : Nat, u < 8 * d.tiles ∧ v < 8 * d.tiles ∧ px = d.x + u ∧ py = d.y + v := by
  have hinside := Decidable.of_not_not (mt (if_neg (e := none)) h)
  obtain ⟨-, hxlo, hxhi, hylo, hyhi⟩ := hinside
  simp only [Config.cell] at hxhi hyhi
  exact ⟨(px - d.x).toNat, (py - d.y).toNat, by omega, by omega, by omega, by omega⟩

@[simp] theorem descriptorColor_rasterSource (m : Memory) (d : Descriptor) :
    descriptorColor (rasterSource m) d = descriptorColor m d := by
  funext px py
  simp only [descriptorColor, bmpGet_rasterSource, palColor_rasterSource]

/-! ### One slot and one pixel -/

/-- When `P` holds `f` lays the color `o` over the pixel `(px, py)`, changing nothing where `o` is no color; else it
leaves the pixel. -/
structure Lays (px py : Nat) (o : Option Word) (P : Prop) (f : Memory → Memory) : Prop where
  laid : P → ∀ m, pixel (f m) px py = o.getD (pixel m px py)
  kept : ¬ P → ∀ m, pixel (f m) px py = pixel m px py

/-- If `P` holds whenever `o` is a color, `f` lays `o` over the pixel in every case. -/
theorem Lays.pixel_eq {px py : Nat} {o : Option Word} {P : Prop} {f : Memory → Memory} (h : Lays px py o P f)
    (hP : o ≠ none → P) (m : Memory) : pixel (f m) px py = o.getD (pixel m px py) := by
  by_cases hhit : P
  · exact h.laid hhit m
  · rw [h.kept hhit, Decidable.of_not_not (mt hP hhit), Option.getD_none]

theorem getD_getD_self (o : Option Word) (c : Word) : o.getD (o.getD c) = o.getD c := by
  cases o <;> rfl

/-- Laying one color any number of times is laying it once. -/
theorem Lays.loop {px py : Nat} {o : Option Word} {n : Nat} {P : Nat → Prop} {body : Nat → Memory → Memory}
    (h : ∀ i, i < n → Lays px py o (P i) (body i)) : Lays px py o (∃ i < n, P i) (loop n body) := by
  induction n with
  | zero => exact ⟨fun ⟨_, hi, _⟩ => absurd hi (Nat.not_lt_zero _), fun _ _ => rfl⟩
  | succ n ih =>
    have hlast := h n (Nat.lt_succ_self n)
    obtain ⟨hlaid, hkept⟩ := ih fun i hi => h i (Nat.lt_succ_of_lt hi)
    simp only [Nat.exists_lt_succ_right]
    refine ⟨fun hsome m => ?_, fun hnone m => ?_⟩
    · rw [loop_succ]
      by_cases hn : P n <;> by_cases hbefore : ∃ i < n, P i
      · rw [hlast.laid hn, hlaid hbefore, getD_getD_self]
      · rw [hlast.laid hn, hkept hbefore]
      · rw [hlast.kept hn, hlaid hbefore]
      · exact absurd hsome (not_or.2 ⟨hbefore, hn⟩)
    · obtain ⟨hbefore, hn⟩ := not_or.1 hnone
      rw [loop_succ, hlast.kept hn, hkept hbefore]

/-- A pass of the innermost loop lays the descriptor's color for the pixel it comes to. -/
theorem rasterPixel_lays {src : Memory} {d : Descriptor} {tx ty x y px py : Nat} (hen : d.en = true)
    (htx : tx < d.tiles) (hty : ty < d.tiles) (hx : x < 8) (hy : y < 8) (hpx : px < 128) (hpy : py < 128) :
    Lays px py (descriptorColor src d px py) (d.x + x + tx * 8 = px ∧ d.y + y + ty * 8 = py)
      (rasterPixel src d tx ty x y) := by
  have hpixel (m : Memory) : pixel (rasterPixel src d tx ty x y m) px py =
      if d.x + x + tx * 8 = px ∧ d.y + y + ty * 8 = py then
        (Option.guard isOpaque (tileColor src d tx ty x y)).getD (pixel m px py) else pixel m px py := by
    simp only [rasterPixel, Option.guard, Config.cell]
    split
    · exact pixel_plot _ _ _ _ _ _ hpx hpy
    · exact (ite_self _).symm
  refine ⟨fun hhit m => ?_, fun hmiss m => by rw [hpixel, if_neg hmiss]⟩
  rw [hpixel, if_pos hhit, ← squareColor_tile src hen hx hy,
    ← descriptorColor_square src d (show x + tx * 8 < _ by omega) (show y + ty * 8 < _ by omega),
    show (px : Int) = d.x + (x + tx * 8 : Nat) by omega, show (py : Int) = d.y + (y + ty * 8 : Nat) by omega]

theorem pixel_rasterDescriptor (src : Memory) (d : Descriptor) (m : Memory) {px py : Nat} (hpx : px < 128)
    (hpy : py < 128) :
    pixel (rasterDescriptor src d m) px py = (descriptorColor src d px py).getD (pixel m px py) := by
  rcases hen : d.en with _ | _
  · rw [rasterDescriptor_of_disabled hen, descriptorColor_of_disabled hen, Option.getD_none]
  have hloops := Lays.loop fun ty hty => Lays.loop fun tx htx => Lays.loop fun y hy => Lays.loop fun x hx =>
    rasterPixel_lays (src := src) hen htx hty hx hy hpx hpy
  rw [rasterDescriptor, if_pos hen]
  refine hloops.pixel_eq (fun hcolor => ?_) m
  obtain ⟨u, v, hu, hv, hpxu, hpyv⟩ := exists_square_of_descriptorColor hcolor
  exact ⟨v / 8, by omega, u / 8, by omega, v % 8, by omega, u % 8, by omega, by omega, by omega⟩

/-! ### All slots -/

/-- RASTER composites the slots over each pixel (44_rasterizer.md R192). -/
theorem pixel_paintRaster (m : Memory) {px py : Nat} (hpx : px < 128) (hpy : py < 128) :
    pixel (paintRaster m) px py = compositePixel m (List.range 128) px py (pixel m px py) := by
  refine loop_induction_on
    (P := fun i k => pixel k px py = compositePixel m (List.range i) px py (pixel m px py)) rfl fun i k _ hk => ?_
  rw [pixel_rasterDescriptor _ _ _ hpx hpy, hk, descRead_rasterSource, descriptorColor_rasterSource, compositePixel,
    compositePixel, List.range_succ, List.foldl_append]
  rfl

/-- Where no slot but `n` paints, compositing lays the color of slot `n`. -/
theorem compositePixel_of_single {m : Memory} {n : Nat} {px py : Int} {ns : List Nat}
    (hothers : ∀ k ∈ ns, k ≠ n → descriptorColor m (descRead m k) px py = none) (old : Word) :
    compositePixel m ns px py old =
      if n ∈ ns then (descriptorColor m (descRead m n) px py).getD old else old := by
  induction ns generalizing old with
  | nil => rfl
  | cons k ns ih =>
    have hrest := ih fun j hj => hothers j (List.mem_cons_of_mem k hj)
    rw [compositePixel, List.foldl_cons, ← compositePixel, hrest]
    by_cases hk : k = n
    · subst hk
      rw [getD_getD_self, ite_self, if_pos List.mem_cons_self]
    · rw [hothers k List.mem_cons_self hk, Option.getD_none]
      simp only [List.mem_cons, Ne.symm hk, false_or]

/-- The square of a slot that alone is enabled and lies wholly on the screen, over one color. -/
theorem pixel_paintRaster_of_single {m : Memory} {n : Nat} {d : Descriptor} {bg : Word} (hn : n < 128)
    (hd : descRead m n = d) (hothers : ∀ k, k < 128 → k ≠ n → (descRead m k).en = false)
    (hx : 0 ≤ d.x ∧ d.x + 8 * d.tiles ≤ 128) (hy : 0 ≤ d.y ∧ d.y + 8 * d.tiles ≤ 128)
    (hbg : ∀ x y, x < 128 → y < 128 → pixel m x y = bg) {u v : Nat} (hu : u < 8 * d.tiles) (hv : v < 8 * d.tiles) :
    pixel (paintRaster m) (d.x.toNat + u) (d.y.toNat + v) = (squareColor m d u v).getD bg := by
  have hpx : d.x.toNat + u < 128 := by omega
  have hpy : d.y.toNat + v < 128 := by omega
  rw [pixel_paintRaster m hpx hpy, hbg _ _ hpx hpy, compositePixel_of_single fun k hk hne =>
    descriptorColor_of_disabled (hothers k (List.mem_range.1 hk) hne) m _ _, if_pos (List.mem_range.2 hn), hd,
    ← descriptorColor_square m d hu hv, Int.natCast_add, Int.natCast_add, Int.toNat_of_nonneg hx.1,
    Int.toNat_of_nonneg hy.1]

/-! ### FLIPX (44_rasterizer.md R199) -/

/-- A tile pixel's color depends on the palette and bitmap zones alone. -/
theorem tileColor_congr {m m' : Memory} (h : ∀ a, 0x1DA00 ≤ a → a < 0x1FC00 → m'.read a = m.read a)
    (d : Descriptor) (hpal : d.pal < 16) {x y : Nat} (hx : x < 8) (hy : y < 8) (tx ty : Nat) :
    tileColor m' d tx ty x y = tileColor m d tx ty x y := by
  have hbmp {b i j : Nat} (hb : b < 256) (hi : i < 8) (hj : j < 8) : bmpGet m' b i j = bmpGet m b i j := by
    have := bmpByteAddr_range hb hi hj
    rw [bmpGet, bmpGet, h _ (by omega) (by omega)]
  have hcolor {e : Nat} (he : e < 16) : palColor m' d.pal e = palColor m d.pal e := by
    have := palAddr_range hpal he
    exact Memory.read16_congr (h _ (by omega) (by omega)) (h _ (by omega) (by omega))
  have hindex (stx sty : Nat) : tileBitmap d.index stx sty < 256 := Nat.mod_lt _ (by decide)
  rw [tileColor, hbmp (hindex _ _) (mirror_lt hx _) (mirror_lt hy _), hcolor (BitVec.isLt _)]
  rfl

/-- With the other FLIPX a pixel is read where its mirror image in the square was. -/
theorem tileColor_flipX (m : Memory) (d : Descriptor) {tx x : Nat} (htx : tx < d.tiles) (hx : x < 8) (ty y : Nat) :
    tileColor m { d with flipX := !d.flipX } tx ty x y =
      tileColor m d (d.tiles - 1 - tx) ty (8 - 1 - x) y := by
  rw [tileColor, tileColor, ← mirror_not htx, ← mirror_not hx]
  rfl

/-- With the other FLIPX a slot paints each row of its square mirrored, in every memory with these bitmaps and
palettes. -/
theorem squareColor_flipX {m m' : Memory} (h : ∀ a, 0x1DA00 ≤ a → a < 0x1FC00 → m'.read a = m.read a)
    {d : Descriptor} (hpal : d.pal < 16) {u : Nat} (hu : u < 8 * d.tiles) (v : Nat) :
    squareColor m' { d with flipX := !d.flipX } u v = squareColor m d (8 * d.tiles - 1 - u) v := by
  have hx : u % 8 < 8 := Nat.mod_lt u (by decide)
  have hy : v % 8 < 8 := Nat.mod_lt v (by decide)
  rw [squareColor, squareColor, tileColor_congr h { d with flipX := !d.flipX } hpal hx hy,
    tileColor_flipX m d (by omega) hx, show (8 * d.tiles - 1 - u) / 8 = d.tiles - 1 - u / 8 by omega,
    show (8 * d.tiles - 1 - u) % 8 = 8 - 1 - u % 8 by omega]

end Sys2Proof.Machine

/-! The statements of the rasterizer (44_rasterizer.md R190 to R201). -/

namespace Sys2Proof.Machine

/-- Settles O32: each slot lays its own color over a pixel of its square, so the slots in ascending order composite. -/
theorem rasterCompositesSlots : Obligations.RasterCompositesSlots := by
  refine ⟨rfl, fun s => ?_⟩
  obtain ⟨t, hexec, hmem, hrest⟩ := exec_store (legal_painter (i := .raster) (by decide) s) rfl
  refine ⟨t, hexec, fun px py hpx hpy => ?_, fun a ha => ?_, hrest⟩
  · rw [hmem, pixel_paintRaster s.mem hpx hpy]
  · rw [hmem, paintRaster_eq_rasterFrom, (rasterFrom_writesOnly _).frame ha]

/-- Settles O33: no pass of the pseudocode changes a byte that a later one reads. -/
theorem rasterEqualsItsPseudocode : Obligations.RasterEqualsItsPseudocode :=
  fun m => (rasterByPlot_sameOn (rasterSource m) m rfl).1.symm

/-- Settles O34: a disabled slot is skipped before anything is painted. -/
theorem rasterSkipsDisabledSlots : Obligations.RasterSkipsDisabledSlots := by
  intro s hdisabled
  rw [exec_raster, paintRaster_eq_self fun n hn => rasterDescriptor_of_disabled (hdisabled n hn) _ _]

/-- Settles O35: every color a slot resolves is a palette entry, and none is painted unless opaque. -/
theorem rasterPaintsNoTransparentColor : Obligations.RasterPaintsNoTransparentColor := by
  intro s htransparent
  rw [exec_raster, paintRaster_eq_self fun n _ => rasterDescriptor_of_transparent (fun e he => ?_) _]
  rw [palColor_rasterSource]
  exact htransparent _ e (descRead_pal_lt s.mem n) he

/-- Settles O36: both squares are painted by one slot over one color, and the flipped one reads each column where the
other reads its mirror image. -/
theorem rasterFlipXMirrors : Obligations.RasterFlipXMirrors := by
  intro s s' t t' n bg hn hothers
  generalize hd : descRead s.mem n = d
  dsimp only
  rintro hd' hzones ⟨hxlo, hxhi, hylo, hyhi⟩ hbg hexec hexec' u v hu hv
  have hpal : d.pal < 16 := hd ▸ descRead_pal_lt s.mem n
  have hplain := pixel_paintRaster_of_single hn hd (fun k hk hne => (hothers k hk hne).1) ⟨hxlo, hxhi⟩ ⟨hylo, hyhi⟩
    (fun x y hx hy => (hbg x y hx hy).1) (show 8 * d.tiles - 1 - u < 8 * d.tiles by omega) hv
  have hflipped := pixel_paintRaster_of_single hn hd' (fun k hk hne => (hothers k hk hne).2) ⟨hxlo, hxhi⟩
    ⟨hylo, hyhi⟩ (fun x y hx hy => (hbg x y hx hy).2) hu hv
  rw [squareColor_flipX hzones hpal hu] at hflipped
  rw [exec_raster] at hexec hexec'
  cases hexec
  cases hexec'
  exact hflipped.trans hplain.symm

end Sys2Proof.Machine

/-! SUPPORT. Every step answers a next state, an idle one its own, and a CMD write that reports an error has stored
nothing but CMD and STATUS (60_exceptions.md R222, R226, R237; log entries 1, 3 and 7). -/

namespace Sys2Proof.Machine

/-- With an empty queue no transaction is served (60_exceptions.md R237; log entry 3). -/
theorem step_of_idle {s : State} (h : s.inputs = []) : step s = .next s := by
  simp only [step, serve, h]

theorem exec_goesOn (i : Instr) (s : State) : ∃ t, exec i s = .next t := by
  rcases hb : firstBadOperand i.operands s.args with _ | b
  · exact ⟨_, exec_of_legal hb⟩
  · exact ⟨_, exec_of_bad hb⟩

theorem startCommand_goesOn (w : Word) (s : State) : ∃ t, startCommand w s = .next t := by
  rcases startCommand_cases w s with ⟨i, -, hrun⟩ | ⟨e, -, hrun⟩
  · rw [hrun]
    exact exec_goesOn i (s.setCmd w)
  · exact ⟨_, hrun⟩

theorem step_goesOn (s : State) : ∃ t, step s = .next t := by
  rcases step_cases s with ⟨-, hidle⟩ | ⟨n, rest, -, hread⟩ | ⟨n, w, rest, -, -, hcmd⟩ | ⟨n, v, rest, -, -, hwrite⟩ |
    ⟨rest, -, hreset⟩
  · exact ⟨_, hidle⟩
  · exact ⟨_, hread⟩
  · rw [hcmd]
    exact startCommand_goesOn w (s.setPort rest none)
  · exact ⟨_, hwrite⟩
  · exact ⟨_, hreset⟩

theorem errorNumber_mem (e : ErrorCode) : errorNumber e ∈ ([1, 2, 3] : List Word) := by
  cases e <;> decide

/-- The end of a command that a CMD write starts: STATUS 0x0000, or CMD and an error in STATUS and all else as before.
A word that is no command ends the second way (30_encoding.md R83). -/
theorem startCommand_next_cases {w : Word} {s t : State} (h : startCommand w s = .next t) :
    t.status = 0x0000 ∨ ∃ e, t = (s.setCmd w).setStatus (errorStatus e) := by
  rcases startCommand_cases w s with ⟨i, -, hrun⟩ | ⟨-, -, hrun⟩
  · exact (exec_next_cases (hrun.symm.trans h)).imp_left fun ⟨_, heffect⟩ => by rw [heffect, State.setStatus_status]
  · cases hrun.symm.trans h
    exact .inr ⟨.illegalCmd, rfl⟩

end Sys2Proof.Machine

/-! The statements of the errors and the idle block (60_exceptions.md R220 to R237). -/

namespace Sys2Proof.Machine

/-- Settles O45: a nonzero STATUS excludes the end of a command that took its effect. -/
theorem errorsArePrecise : Obligations.ErrorsArePrecise := by
  intro s t w rest h hstep hstatus
  rcases startCommand_next_cases ((step_of_cmdWrite h).symm.trans hstep) with hzero | ⟨e, rfl⟩
  · exact absurd hzero hstatus
  · exact ⟨⟨errorNumber e, errorNumber_mem e, rfl⟩, rfl⟩

/-- Settles O46, by induction on the number of steps. -/
theorem machineNeverStops : Obligations.MachineNeverStops := by
  intro s k
  induction k generalizing s with
  | zero => exact ⟨s, rfl⟩
  | succ k ih =>
    obtain ⟨t, hstep⟩ := step_goesOn s
    rw [run_of_step_next k hstep]
    exact ih t

/-- Settles O47. -/
theorem idleKeepsState : Obligations.IdleKeepsState := fun _ => step_of_idle

end Sys2Proof.Machine

/-! SUPPORT. The reset transaction and CLEAR as equations, and the registers of the reset state (70_reset_and_hazards.md
R250 to R252). -/

namespace Sys2Proof.Machine

/-- Reset runs no command: the step is the reset state itself, with the later transactions still pending. -/
theorem step_of_reset {s : State} {rest : List Input} (h : s.inputs = .reset :: rest) :
    step s = .next (State.reset.setPort rest none) := by
  simp only [step, serve, h, hardwareReset, State.setPort_inputs]

/-- CLEAR has no operand to refuse. -/
theorem exec_clear (s : State) : exec .clear s = .next ((s.setMem Memory.cleared).setStatus 0x0000) := exec_of_legal rfl

theorem reset_mem_eq_cleared : State.reset.mem = Memory.cleared := rfl

/-- WIDTH and HEIGHT are constants (10_state.md R28); every other number reads a register that holds zero, or is
reserved and reads as zero (R29). -/
theorem readReg_reset (n : BitVec 4) :
    State.reset.readReg (regOfNumber n) = if n = 0xA ∨ n = 0xB then 0x0080 else 0x0000 := by
  rw [readReg_regOfNumber]
  simp only [State.reset_cmd, State.reset_arg0, State.reset_arg1, State.reset_arg2, State.reset_arg3, State.reset_arg4,
    State.reset_res0, State.reset_res1, State.reset_res2, State.reset_status]
  revert n
  decide

end Sys2Proof.Machine

/-! The statements of hardware reset and CLEAR (70_reset_and_hazards.md R250 to R252). -/

namespace Sys2Proof.Machine

/-- Settles O48: the step ends in the reset state, whose `MEM` is the cleared one. -/
theorem resetInputZeroesAll : Obligations.ResetInputZeroesAll := by
  intro s rest h
  exact ⟨_, step_of_reset h, Memory.read_cleared, rfl, rfl, rfl, rfl, rfl, rfl, rfl, rfl, rfl, rfl⟩

/-- Settles O49: every element of the cleared `MEM` is zero, and the registers are read through the register map. -/
theorem resetStateValues : Obligations.ResetStateValues := by
  rw [Obligations.ResetStateValues, reset_mem_eq_cleared]
  exact ⟨Memory.read_cleared, palColor_cleared, bmpGet_cleared, descRead_cleared, pixel_cleared, readReg_reset⟩

/-- Settles O50: the word decodes to CLEAR, which stores the reset state's `MEM` and STATUS and no other register. -/
theorem clearIsResetOfMemoryOnly : Obligations.ClearIsResetOfMemoryOnly := by
  intro s rest h
  refine ⟨_, ?_, rfl⟩
  calc step s = startCommand (encode .clear) (s.setPort rest none) := step_of_cmdWrite h
    _ = exec .clear ((s.setPort rest none).setCmd (encode .clear)) := startCommand_of_decode (decode_encode .clear)
    _ = .next ((((s.setPort rest none).setCmd (encode .clear)).setMem Memory.cleared).setStatus 0x0000) := exec_clear _

end Sys2Proof.Machine
